-- ==== Sys2Proof/Word.lean ====
section
/-! DEFINITION. The word types of the machine: the byte of a register or memory cell (10_state.md R20, R33)
and the 16-bit word of an opcode, of I, of PC and of a stack entry (R23, R24, R29, 30_encoding.md R70). -/

namespace Sys2Proof

/-- An unsigned 8-bit value: a V register, a timer, a memory cell, an `NN` immediate. -/
abbrev Byte := BitVec 8

/-- An unsigned 16-bit value: an opcode, I, PC, a stack entry. -/
abbrev Word := BitVec 16

end Sys2Proof
end

