-- ==== Sys2Proof/Config.lean ====
section
/-! DEFINITION. What the hardware fixes (00_scope.md R5), what a session is configured with (R6), and the free
values of a step (40_cycle.md R98). -/

namespace Sys2Proof.Config

/-- R5 `MEM_SIZE`: 4096 bytes, addresses 0x000 to 0xFFF. -/
def memSize : Nat := 4096

/-- R5 `PROG_BASE`: the ROM is loaded from here, and PC is this after reset (R24). -/
def progBase : Nat := 0x200

/-- R5 `FONT_BASE`: the font is resident from address 0. -/
def fontBase : Word := 0x000#16

/-- R5 `STACK_DEPTH`: sixteen return addresses. -/
def stackDepth : Nat := 16

/-- R5 `FB_W`: 64 columns. -/
def fbWidth : Nat := 64

/-- R5 `FB_H`: 32 rows. -/
def fbHeight : Nat := 32

/-- R242: the longest ROM that fits, 4096 - 0x200 bytes. -/
def maxRom : Nat := memSize - progBase

/-- The conventional CHIP-8 font of 10_state.md R37, glyph `d` at bytes `5 * d` to `5 * d + 4`.
PRESUMED (log entry 7): the source gives no byte, and R37 marks this default as general knowledge. -/
def font : List Byte :=
  [0xF0, 0x90, 0x90, 0x90, 0xF0] ++ [0x20, 0x60, 0x20, 0x20, 0x70] ++
  [0xF0, 0x10, 0xF0, 0x80, 0xF0] ++ [0xF0, 0x10, 0xF0, 0x10, 0xF0] ++
  [0x90, 0x90, 0xF0, 0x10, 0x10] ++ [0xF0, 0x80, 0xF0, 0x10, 0xF0] ++
  [0xF0, 0x80, 0xF0, 0x90, 0xF0] ++ [0xF0, 0x10, 0x20, 0x40, 0x40] ++
  [0xF0, 0x90, 0xF0, 0x90, 0xF0] ++ [0xF0, 0x90, 0xF0, 0x10, 0xF0] ++
  [0xF0, 0x90, 0xF0, 0x90, 0x90] ++ [0xE0, 0x90, 0xE0, 0x90, 0xE0] ++
  [0xF0, 0x80, 0x80, 0x80, 0xF0] ++ [0xE0, 0x90, 0x90, 0x90, 0xE0] ++
  [0xF0, 0x80, 0xF0, 0x80, 0xF0] ++ [0xF0, 0x80, 0xF0, 0x80, 0x80]

/-- The free byte `rand` of the `n`-th draw (42_const_random.md R122, D14): under no law, so it has no body.
Safe (log entry 4). -/
opaque randByte : Nat → Byte

/-- The free choice behind `key_select` at the `n`-th draw (45_key_timer.md R164, D13): under no law, so it has
no body; `FX0A` reduces it to an index into the pressed keys. Safe (log entry 5). -/
opaque keyChoice : Nat → Nat

end Sys2Proof.Config

namespace Sys2Proof

/-- The session parameter `SHIFT_SRC` of 43_alu.md R141: the register that `8XY6` and `8XYE` shift. -/
inductive ShiftSrc where
  | vy
  | vx
deriving DecidableEq, Repr

end Sys2Proof
end

