-- ==== Sys2Proof/Syntax.lean ====
section
/-! DEFINITION. The 34 instructions of 30_encoding.md R76, one constructor for each row of spec/opcode_table.json,
in the table's order. Each argument has the width of its field (R71), so a term holds nothing an encoding cannot. -/

namespace Sys2Proof

/-- A register field `X` or `Y`: four bits, every value names a register `V0` to `VF` (10_state.md R20). -/
abbrev Reg := BitVec 4

/-- The instruction set (30_encoding.md R76). The comment after each constructor is its pattern. -/
inductive Instr where
  | cls                            -- 00E0
  | ret                            -- 00EE
  | jp (nnn : BitVec 12)           -- 1NNN
  | call (nnn : BitVec 12)         -- 2NNN
  | seImm (x : Reg) (nn : Byte)    -- 3XNN
  | sneImm (x : Reg) (nn : Byte)   -- 4XNN
  | seReg (x y : Reg)              -- 5XY0
  | ldImm (x : Reg) (nn : Byte)    -- 6XNN
  | addImm (x : Reg) (nn : Byte)   -- 7XNN
  | ldReg (x y : Reg)              -- 8XY0
  | orReg (x y : Reg)              -- 8XY1
  | andReg (x y : Reg)             -- 8XY2
  | xorReg (x y : Reg)             -- 8XY3
  | addReg (x y : Reg)             -- 8XY4
  | subReg (x y : Reg)             -- 8XY5
  | shr (x y : Reg)                -- 8XY6
  | subn (x y : Reg)               -- 8XY7
  | shl (x y : Reg)                -- 8XYE
  | sneReg (x y : Reg)             -- 9XY0
  | ldI (nnn : BitVec 12)          -- ANNN
  | jpV0 (nnn : BitVec 12)         -- BNNN
  | rnd (x : Reg) (nn : Byte)      -- CXNN
  | drw (x y : Reg) (n : BitVec 4) -- DXYN
  | skp (x : Reg)                  -- EX9E
  | sknp (x : Reg)                 -- EXA1
  | readDelay (x : Reg)            -- FX07
  | waitKey (x : Reg)              -- FX0A
  | setDelay (x : Reg)             -- FX15
  | setSound (x : Reg)             -- FX18
  | addI (x : Reg)                 -- FX1E
  | ldFont (x : Reg)               -- FX29
  | storeBcd (x : Reg)             -- FX33
  | storeRegs (x : Reg)            -- FX55
  | loadRegs (x : Reg)             -- FX65
deriving DecidableEq, Repr

/-- The instruction's primary name, its hexadecimal pattern (30_encoding.md R81). -/
def Instr.mnemonic : Instr → String
  | .cls => "00E0"
  | .ret => "00EE"
  | .jp _ => "1NNN"
  | .call _ => "2NNN"
  | .seImm _ _ => "3XNN"
  | .sneImm _ _ => "4XNN"
  | .seReg _ _ => "5XY0"
  | .ldImm _ _ => "6XNN"
  | .addImm _ _ => "7XNN"
  | .ldReg _ _ => "8XY0"
  | .orReg _ _ => "8XY1"
  | .andReg _ _ => "8XY2"
  | .xorReg _ _ => "8XY3"
  | .addReg _ _ => "8XY4"
  | .subReg _ _ => "8XY5"
  | .shr _ _ => "8XY6"
  | .subn _ _ => "8XY7"
  | .shl _ _ => "8XYE"
  | .sneReg _ _ => "9XY0"
  | .ldI _ => "ANNN"
  | .jpV0 _ => "BNNN"
  | .rnd _ _ => "CXNN"
  | .drw _ _ _ => "DXYN"
  | .skp _ => "EX9E"
  | .sknp _ => "EXA1"
  | .readDelay _ => "FX07"
  | .waitKey _ => "FX0A"
  | .setDelay _ => "FX15"
  | .setSound _ => "FX18"
  | .addI _ => "FX1E"
  | .ldFont _ => "FX29"
  | .storeBcd _ => "FX33"
  | .storeRegs _ => "FX55"
  | .loadRegs _ => "FX65"

end Sys2Proof
end

