-- ==== Sys2Proof/Machine/State.lean ====
section
/-! DEFINITION. The state of the core (10_state.md R20 to R38), the error causes (60_exceptions.md R200), and the
state after reset (R39, 70_reset_and_hazards.md R240, R241). -/

namespace Sys2Proof.Machine

/-- The five per-step error causes of 60_exceptions.md R200. Raising one is the machine's only trap entry (R207):
it is a NEXT state, not a `Fault`. -/
inductive Cause where
  /-- Raised in the decode phase: the word is none of the 34 instructions (R201). -/
  | unknownInstruction
  /-- Raised by `2NNN` when SP is 16 (R202). -/
  | stackOverflow
  /-- Raised by `00EE` when SP is 0 (R203). -/
  | stackUnderflow
  /-- Raised by fetch, `DXYN`, `FX33`, `FX55`, `FX65` for a byte address of 4096 or more (R204). -/
  | addressOutOfRange
  /-- Raised by `EX9E` and `EXA1` when VX is above 15 (R205). -/
  | keyIndexOutOfRange
deriving DecidableEq, Repr

/-- The run-status latch (R32). -/
inductive Status where
  | running
  | halted (c : Cause)
deriving DecidableEq, Repr

/-- MEM as the listed cells: address and byte, addresses strictly rising, none equal to what an unlisted address
reads as (`Memory.wf`). The operations are in Machine/Ops.lean. -/
abbrev Memory := List Host.Cell

/-- FB, 32 rows of 64 one-bit pixels (R35): pixel (x, y) is bit `x` of row `y` (log entry 16). -/
abbrev Framebuffer := Vector (BitVec 64) 32

/-- The state of the block. Everything but the last two fields is the spec's; `shiftSrc` is the session parameter
of R141 (log entry 3) and `draws` the model's own counter of free values (log entry 6). -/
structure State where
  /-- V0 to VF (R20). -/
  v : Vector Byte 16
  /-- The index register I (R23). -/
  i : Word
  /-- The program counter (R24). -/
  pc : Word
  /-- The stack pointer, 0 to 16 inclusive (R28, log entry 14). -/
  sp : Fin 17
  /-- The call stack (R29). -/
  stack : Vector Word 16
  /-- The delay timer (R30). -/
  dt : Byte
  /-- The sound timer (R31). -/
  st : Byte
  /-- The run-status latch (R32). -/
  status : Status
  /-- The 4096-byte memory (R33). -/
  mem : Memory
  /-- The framebuffer (R35). -/
  fb : Framebuffer
  /-- The key input vector (R36). -/
  keys : Vector Bool 16
  /-- The session parameter SHIFT_SRC (R141): no instruction and no event changes it. -/
  shiftSrc : ShiftSrc
  /-- How many free values have been consumed so far. -/
  draws : Nat
deriving DecidableEq, Repr

/-- The machine stops with a fault. No step of the core does: every error of a step is a next state (R207). -/
inductive Fault where
  /-- `reset(rom)` with a ROM of more than 3584 bytes (R209, R242): no machine state exists. Raised by the event
  `reset` only (`State.boot`, `State.resetRom`). Safe: the spec gives no event a meaning after it (D29). -/
  | loadError
deriving DecidableEq, Repr

/-- An instruction without a meaning in the model. -/
inductive Refusal where
  /-- Raised by an arm of `exec` whose instruction has no meaning yet, by the mnemonic of the opcode table. Safe.
  Every instruction has its meaning, so no arm raises it. -/
  | notModelled (mnemonic : String)
deriving DecidableEq, Repr

/-- The state right after `reset` of the empty ROM (R39, R240, R241 with L = 0; log entry 8): the font at 0x000 and
0 elsewhere is what unlisted memory reads as (log entry 9), PC is 0x200 (R24, D4), every other register, pixel and
key is 0, STATUS is RUNNING. SHIFT_SRC is the default VY of R141 (log entry 3); no free value has been drawn
(log entry 6). -/
def State.reset : State where
  v := Vector.replicate 16 0
  i := 0
  pc := 0x200
  sp := 0
  stack := Vector.replicate 16 0
  dt := 0
  st := 0
  status := .running
  mem := []
  fb := Vector.replicate 32 0
  keys := Vector.replicate 16 false
  shiftSrc := .vy
  draws := 0

end Sys2Proof.Machine
end

