-- ==== Sys2Proof/Machine/Ops.lean ====
section
/-! DEFINITION. The named operations over memory, registers, call stack, framebuffer and status, among them raising an
error (60_exceptions.md R207). Meanings change the state through these only. -/

namespace Sys2Proof.Machine

/-! ### Memory (20_memory.md R50 to R53, R59) -/

/-- What an address that nothing has written reads as: the reset contents of R39 and R59 under the empty ROM, the
font from 0x000 to 0x04F and 0 everywhere else (log entry 9). -/
def Memory.unlisted (a : Nat) : Byte := Config.font[a]?.getD 0

/-- The byte at address `a` (`MEM[a]`). -/
def Memory.get : Memory → Nat → Byte
  | [], a => Memory.unlisted a
  | (k, c) :: m, a => if a = k then c else Memory.get m a

/-- List the cell `(a, b)` at its place in the rising order. -/
def Memory.list (a : Nat) (b : Byte) : Memory → Memory
  | [] => [(a, b)]
  | (k, c) :: m =>
    if a < k then (a, b) :: (k, c) :: m
    else if a = k then (a, b) :: m
    else (k, c) :: Memory.list a b m

/-- Take the cell of address `a` off the list. -/
def Memory.unlist (a : Nat) (m : Memory) : Memory := m.filter fun p => p.1 != a

/-- `MEM[a] <- b` in canonical form: a cell is listed exactly when it differs from what it reads as unlisted. -/
def Memory.set (m : Memory) (a : Nat) (b : Byte) : Memory :=
  if b = Memory.unlisted a then Memory.unlist a m else Memory.list a b m

/-- The canonical form from address `lo` up: addresses strictly rising, inside MEM, no cell at its unlisted value. -/
def Memory.wfFrom (lo : Nat) : Memory → Bool
  | [] => true
  | (a, b) :: m =>
    decide (lo ≤ a) && decide (a < Config.memSize) && decide (b ≠ Memory.unlisted a) && Memory.wfFrom (a + 1) m

/-- The canonical form: equal memories are equal lists. -/
def Memory.wf (m : Memory) : Bool := Memory.wfFrom 0 m

/-- The range check of a whole access (R53, R173, R151): the `n` bytes from address `a` all lie below 4096. The sum is
formed in natural numbers and not reduced; an access of no bytes is always in range. -/
abbrev accessible (a n : Nat) : Prop := n = 0 ∨ a + n ≤ Config.memSize

/-- The bytes `MEM[a .. a+n-1]`, lowest address first. -/
def Memory.getBytes (m : Memory) (a : Nat) : Nat → List Byte
  | 0 => []
  | n + 1 => m.get a :: Memory.getBytes m (a + 1) n

/-- `MEM[a + k] <- bs[k]` for each `k`, lowest address first. -/
def Memory.setBytes (m : Memory) (a : Nat) : List Byte → Memory
  | [] => m
  | b :: bs => Memory.setBytes (m.set a b) (a + 1) bs

/-- `MemRead` of the `n` bytes from `a` (R50, R51; R151, R173: the whole range is checked first); `none` is
`AddressOutOfRange`. -/
def Memory.read (m : Memory) (a n : Nat) : Option (List Byte) :=
  if accessible a n then some (m.getBytes a n) else none

/-- `MemWrite` of the bytes `bs` from `a` (R52; R173: the whole range is checked before any byte is written); `none` is
`AddressOutOfRange`. Every address below 4096 is writable (R60). -/
def Memory.write (m : Memory) (a : Nat) (bs : List Byte) : Option Memory :=
  if accessible a bs.length then some (m.setBytes a bs) else none

/-! ### Registers (10_state.md R20 to R31) -/

/-- The register VF, the flag (R21). -/
def VF : Reg := 0xF#4

/-- The register V0, the offset of `BNNN` (R103). -/
def V0 : Reg := 0x0#4

/-- `V[x]`. -/
def State.reg (s : State) (x : Reg) : Byte := s.v[x.toNat]'x.isLt

/-- `V[x] <- b`. -/
def State.setReg (s : State) (x : Reg) (b : Byte) : State := { s with v := s.v.set x.toNat b x.isLt }

/-- `I <- a`. -/
def State.setI (s : State) (a : Word) : State := { s with i := a }

/-- `PC <- a`. -/
def State.setPc (s : State) (a : Word) : State := { s with pc := a }

/-- `DT <- b`. -/
def State.setDt (s : State) (b : Byte) : State := { s with dt := b }

/-- `ST <- b`. -/
def State.setSt (s : State) (b : Byte) : State := { s with st := b }

/-- `STATUS <- c`. -/
def State.setStatus (s : State) (c : Status) : State := { s with status := c }

/-- MEM becomes `m`. -/
def State.setMem (s : State) (m : Memory) : State := { s with mem := m }

/-- FB becomes `fb`. -/
def State.setFb (s : State) (fb : Framebuffer) : State := { s with fb := fb }

/-- One more free value has been consumed. -/
def State.countDraw (s : State) : State := { s with draws := s.draws + 1 }

/-- `V[k], V[k+1], ... <- bs`, lowest register first (`FX65`, R176). -/
def State.setRegsFrom (s : State) (k : Nat) : List Byte → State
  | [] => s
  | b :: bs => State.setRegsFrom (s.setReg (BitVec.ofNat 4 k) b) (k + 1) bs

/-- `V[k], V[k+1], ...`, `n` of them (`FX55`, R175). -/
def State.regsFrom (s : State) (k : Nat) : Nat → List Byte
  | 0 => []
  | n + 1 => s.reg (BitVec.ofNat 4 k) :: State.regsFrom s (k + 1) n

/-! ### The program counter (R25) -/

/-- The address of the next instruction, `(PC + 2) mod 65536` (R7). -/
def State.nextPc (s : State) : Word := s.pc + 2

/-- The address after the next instruction, `(PC + 4) mod 65536` (R7). -/
def State.skipPc (s : State) : Word := s.pc + 4

/-- `PC <- next`. -/
def State.goNext (s : State) : State := s.setPc s.nextPc

/-- The end of a conditional skip (R104): `PC <- skip` if `c`, else `PC <- next`. -/
def State.skipIf (s : State) (c : Bool) : State := if c then s.setPc s.skipPc else s.goNext

/-! ### The call stack (R28, R29) -/

/-- Push (R29): store, then increment; `none` when SP is 16. -/
def State.push (s : State) (a : Word) : Option State :=
  if h : s.sp.val < 16 then
    some { s with stack := s.stack.set s.sp.val a h, sp := ⟨s.sp.val + 1, by omega⟩ }
  else none

/-- Pop (R29): decrement, then load; `none` when SP is 0. The entry read is not cleared (D27). -/
def State.pop (s : State) : Option (Word × State) :=
  if h : 0 < s.sp.val then
    some (s.stack[s.sp.val - 1]'(by omega), { s with sp := ⟨s.sp.val - 1, by omega⟩ })
  else none

/-! ### Framebuffer and keys (R35, R36) -/

/-- The pixel at column `x` and row `y`, `FB[y][x]`; there is none outside the 64 by 32 grid. -/
def pixel (fb : Framebuffer) (x y : Nat) : Bool := (fb[y]?.getD 0).getLsbD x

/-- `FB[y][x] <- FB[y][x] ^ 1`. -/
def togglePixel (fb : Framebuffer) (x y : Nat) : Framebuffer :=
  if h : y < 32 then fb.set y (fb[y] ^^^ BitVec.twoPow 64 x) h else fb

/-- The framebuffer with all 2048 pixels 0. -/
def clearFb : Framebuffer := Vector.replicate 32 0

/-- `KEY[k]`; there is no key above 15. -/
def State.key (s : State) (k : Nat) : Bool := s.keys[k]?.getD false

/-! ### Raising an error (R207) -/

/-- A step raises the error `c` (R207): STATUS becomes HALTED(c) and nothing else changes, so PC still holds the address
of the offending instruction. There is no return from it but `reset` (R208). -/
def State.raise (s : State) (c : Cause) : Host.Outcome State Fault Refusal := .next (s.setStatus (.halted c))

end Sys2Proof.Machine
end

