-- ==== Sys2Proof/Machine/Flags.lean ====
section
/-! DEFINITION. The flag computations: what VF receives (10_state.md R21), each from the operands as they were before any
write (R22). The collision flag of `DXYN` is in Machine/Display.lean. -/

namespace Sys2Proof.Machine

/-- A flag as the byte VF holds: 1 or 0. -/
def flagByte (c : Bool) : Byte := if c then 1 else 0

/-- The carry of `8XY4`: the sum, a natural number, exceeds 255 (R135). -/
def carryOut (a b : Byte) : Bool := decide (255 < a.toNat + b.toNat)

/-- The no-borrow flag of `8XY5` and `8XY7`: the minuend is not below the subtrahend (R136, R138, C3). -/
def noBorrow (minuend subtrahend : Byte) : Bool := decide (subtrahend.toNat ≤ minuend.toNat)

/-- The bit `8XY6` shifts out: bit 0 of the source (R137). -/
def shiftedOutRight (src : Byte) : Bool := src.getLsbD 0

/-- The bit `8XYE` shifts out: bit 7 of the source (R139). -/
def shiftedOutLeft (src : Byte) : Bool := src.getLsbD 7

end Sys2Proof.Machine
end

