-- ==== Sys2Proof/Machine/Operands.lean ====
section
/-! DEFINITION. The operand forms and operand arithmetic of the instructions: zero extension, wrapped sums, the shift
source, decimal digits, the pressed keys and the choice among them. -/

namespace Sys2Proof.Machine

/-- `zext_16` of a byte (R7). -/
def zextByte (b : Byte) : Word := b.setWidth 16

/-- `zext_16` of a 12-bit immediate (R7, R73). -/
def zextImm (nnn : BitVec 12) : Word := nnn.setWidth 16

/-- The sum of two bytes, formed as a natural number and reduced modulo 256 (R121, R135). -/
def addBytes (a b : Byte) : Byte := BitVec.ofNat 8 (a.toNat + b.toNat)

/-- The difference modulo 256: `a - b`, or `a - b + 256` when `a < b` (R136, R138). -/
def subBytes (a b : Byte) : Byte := BitVec.ofNat 8 (256 + a.toNat - b.toNat)

/-- The shift source of `8XY6` and `8XYE` (R137, R141): VY or VX by the session parameter. -/
def State.shiftSource (s : State) (x y : Reg) : Byte :=
  match s.shiftSrc with
  | .vy => s.reg y
  | .vx => s.reg x

/-- The three decimal digits of a byte, hundreds, tens, units, each a number 0 to 9 in its own byte (R174). -/
def decimalDigits (b : Byte) : List Byte :=
  [BitVec.ofNat 8 (b.toNat / 100), BitVec.ofNat 8 (b.toNat / 10 % 10), BitVec.ofNat 8 (b.toNat % 10)]

/-- The address of font glyph `b` (R172): the formula on the whole byte, with no masking. -/
def fontAddress (b : Byte) : Word := Config.fontBase + zextByte b * 5

/-- The numbers of the keys pressed when the step begins, in rising order (R164). -/
def State.pressedKeys (s : State) : List Nat := (List.range 16).filter fun k => s.key k

/-- `key_select`: a member of the pressed set, which one being a free choice (R164, D13, log entry 5). -/
def selectKey (draw : Nat) (pressed : List Nat) : Nat :=
  (pressed[Config.keyChoice draw % pressed.length]?).getD 0

end Sys2Proof.Machine
end

