-- ==== Sys2Proof/Machine/Alu.lean ====
section
/-! DEFINITION. The 8-bit ALU group (43_alu.md): `8XY0` to `8XY7` and `8XYE`. -/

namespace Sys2Proof.Machine

/-- The end of an ALU instruction without a flag (R130): the result to VX, then `PC <- next`. -/
def State.aluResult (s : State) (x : Reg) (result : Byte) : State := (s.setReg x result).goNext

/-- The end of a flag-writing ALU instruction (R130, R22): the result to VX, then the flag to VF, then `PC <- next`. -/
def State.aluFlagged (s : State) (x : Reg) (result : Byte) (flag : Bool) : State :=
  ((s.setReg x result).setReg VF (flagByte flag)).goNext

/-- `8XY0`, assign (R131). -/
def execLdReg (x y : Reg) (s : State) : Host.Outcome State Fault Refusal := .next (s.aluResult x (s.reg y))

/-- `8XY1`, bitwise OR (R132). -/
def execOrReg (x y : Reg) (s : State) : Host.Outcome State Fault Refusal := .next (s.aluResult x (s.reg x ||| s.reg y))

/-- `8XY2`, bitwise AND (R133). -/
def execAndReg (x y : Reg) (s : State) : Host.Outcome State Fault Refusal := .next (s.aluResult x (s.reg x &&& s.reg y))

/-- `8XY3`, bitwise XOR (R134). -/
def execXorReg (x y : Reg) (s : State) : Host.Outcome State Fault Refusal := .next (s.aluResult x (s.reg x ^^^ s.reg y))

/-- `8XY4`, add with carry flag (R135). -/
def execAddReg (x y : Reg) (s : State) : Host.Outcome State Fault Refusal :=
  .next (s.aluFlagged x (addBytes (s.reg x) (s.reg y)) (carryOut (s.reg x) (s.reg y)))

/-- `8XY5`, subtract with no-borrow flag (R136). -/
def execSubReg (x y : Reg) (s : State) : Host.Outcome State Fault Refusal :=
  .next (s.aluFlagged x (subBytes (s.reg x) (s.reg y)) (noBorrow (s.reg x) (s.reg y)))

/-- `8XY6`, shift right by one (R137). -/
def execShr (x y : Reg) (s : State) : Host.Outcome State Fault Refusal :=
  .next (s.aluFlagged x (s.shiftSource x y >>> 1) (shiftedOutRight (s.shiftSource x y)))

/-- `8XY7`, reverse subtract with no-borrow flag (R138). -/
def execSubn (x y : Reg) (s : State) : Host.Outcome State Fault Refusal :=
  .next (s.aluFlagged x (subBytes (s.reg y) (s.reg x)) (noBorrow (s.reg y) (s.reg x)))

/-- `8XYE`, shift left by one (R139). -/
def execShl (x y : Reg) (s : State) : Host.Outcome State Fault Refusal :=
  .next (s.aluFlagged x (s.shiftSource x y <<< 1) (shiftedOutLeft (s.shiftSource x y)))

end Sys2Proof.Machine
end

