-- ==== Sys2Proof/Machine/ConstRandom.lean ====
section
/-! DEFINITION. Constants and random (42_const_random.md): `6XNN`, `7XNN`, `CXNN`. -/

namespace Sys2Proof.Machine

/-- `6XNN`, load immediate (R120). -/
def execLdImm (x : Reg) (nn : Byte) (s : State) : Host.Outcome State Fault Refusal :=
  .next (s.setReg x nn).goNext

/-- `7XNN`, add immediate without flag (R121). -/
def execAddImm (x : Reg) (nn : Byte) (s : State) : Host.Outcome State Fault Refusal :=
  .next (s.setReg x (addBytes (s.reg x) nn)).goNext

/-- `CXNN`, random under mask (R122): the draw is a free byte, fresh at each execution (log entry 4). -/
def execRnd (x : Reg) (nn : Byte) (s : State) : Host.Outcome State Fault Refusal :=
  .next ((s.setReg x (Config.randByte s.draws &&& nn)).countDraw).goNext

end Sys2Proof.Machine
end

