-- ==== Sys2Proof/Machine/Control.lean ====
section
/-! DEFINITION. Control transfer (41_control.md): `00EE`, `1NNN`, `2NNN`, `BNNN`, `3XNN`, `4XNN`, `5XY0`, `9XY0`. -/

namespace Sys2Proof.Machine

/-- `00EE`, return (R100). -/
def execRet (s : State) : Host.Outcome State Fault Refusal :=
  match s.pop with
  | none => s.raise .stackUnderflow
  | some (target, t) => .next (t.setPc target)

/-- `1NNN`, jump (R101). The target is checked only by the next fetch (D28). -/
def execJp (nnn : BitVec 12) (s : State) : Host.Outcome State Fault Refusal := .next (s.setPc (zextImm nnn))

/-- `2NNN`, call (R102): the value pushed is the address of the next instruction (C10). -/
def execCall (nnn : BitVec 12) (s : State) : Host.Outcome State Fault Refusal :=
  match s.push s.nextPc with
  | none => s.raise .stackOverflow
  | some t => .next (t.setPc (zextImm nnn))

/-- `BNNN`, jump with offset (R103): the register is always V0 (C11), the sum is not reduced (D28). -/
def execJpV0 (nnn : BitVec 12) (s : State) : Host.Outcome State Fault Refusal :=
  .next (s.setPc (zextImm nnn + zextByte (s.reg V0)))

/-- `3XNN`, skip if equal to immediate (R105). -/
def execSeImm (x : Reg) (nn : Byte) (s : State) : Host.Outcome State Fault Refusal :=
  .next (s.skipIf (s.reg x == nn))

/-- `4XNN`, skip if not equal to immediate (R106). -/
def execSneImm (x : Reg) (nn : Byte) (s : State) : Host.Outcome State Fault Refusal :=
  .next (s.skipIf (s.reg x != nn))

/-- `5XY0`, skip if registers equal (R107). -/
def execSeReg (x y : Reg) (s : State) : Host.Outcome State Fault Refusal :=
  .next (s.skipIf (s.reg x == s.reg y))

/-- `9XY0`, skip if registers differ (R108). -/
def execSneReg (x y : Reg) (s : State) : Host.Outcome State Fault Refusal :=
  .next (s.skipIf (s.reg x != s.reg y))

end Sys2Proof.Machine
end

