-- ==== Sys2Proof/Machine/Display.lean ====
section
/-! DEFINITION. Framebuffer raster operations (44_display.md): `00E0`, `DXYN`. -/

namespace Sys2Proof.Machine

/-- `00E0`, clear (R150). -/
def execCls (s : State) : Host.Outcome State Fault Refusal := .next (s.setFb clearFb).goNext

/-- The pixels that the 1 bits of one sprite row land on, leftmost first (R151): column `col` of the sprite is bit
`7 - col` of the byte (log entry 11) and lands on screen column `(x0 + col) mod 64`. -/
def rowTargets (x0 y : Nat) (b : Byte) : List (Nat × Nat) :=
  ((List.range 8).filter fun col => b.getLsbD (7 - col)).map fun col => ((x0 + col) % 64, y)

/-- The pixels that the 1 bits of a sprite land on, top row first (R151): row `row` lands on screen row
`(y0 + row) mod 32`. -/
def spriteTargets (x0 y0 : Nat) : List Byte → List (Nat × Nat)
  | [] => []
  | b :: bs => rowTargets x0 (y0 % 32) b ++ spriteTargets x0 (y0 + 1) bs

/-- Draw by XOR, one pixel after the other (R151): the flag is raised by a pixel that is set and goes off, and is
accumulated over the whole sprite (C14). -/
def drawPixels (fb : Framebuffer) (targets : List (Nat × Nat)) : Framebuffer × Bool :=
  targets.foldl (fun acc p => (togglePixel acc.1 p.1 p.2, acc.2 || pixel acc.1 p.1 p.2)) (fb, false)

/-- `DXYN` up to the range check: draw the sprite at the wrapped position, then VF, then PC (R151, R22). -/
def State.drawSprite (s : State) (x0 y0 : Nat) (sprite : List Byte) : State :=
  ((s.setFb (drawPixels s.fb (spriteTargets x0 y0 sprite)).1).setReg VF
    (flagByte (drawPixels s.fb (spriteTargets x0 y0 sprite)).2)).goNext

/-- `DXYN`, draw sprite by XOR (R151): every sprite byte is checked before any pixel changes; with N = 0 nothing is read. -/
def execDrw (x y : Reg) (n : BitVec 4) (s : State) : Host.Outcome State Fault Refusal :=
  match s.mem.read s.i.toNat n.toNat with
  | none => s.raise .addressOutOfRange
  | some sprite => .next (s.drawSprite ((s.reg x).toNat % 64) ((s.reg y).toNat % 32) sprite)

end Sys2Proof.Machine
end

