-- ==== Sys2Proof/Machine/IndexMemory.lean ====
section
/-! DEFINITION. Index register and memory (46_index_memory.md): `ANNN`, `FX1E`, `FX29`, `FX33`, `FX55`, `FX65`. -/

namespace Sys2Proof.Machine

/-- `ANNN`, load index (R170). -/
def execLdI (nnn : BitVec 12) (s : State) : Host.Outcome State Fault Refusal := .next (s.setI (zextImm nnn)).goNext

/-- `FX1E`, add register to index (R171): modulo 65536, no flag. -/
def execAddI (x : Reg) (s : State) : Host.Outcome State Fault Refusal :=
  .next (s.setI (s.i + zextByte (s.reg x))).goNext

/-- `FX29`, font glyph address (R172). -/
def execLdFont (x : Reg) (s : State) : Host.Outcome State Fault Refusal :=
  .next (s.setI (fontAddress (s.reg x))).goNext

/-- The common store of `FX33` and `FX55` (R173): all bytes from I or none, I unchanged, then `PC <- next`. -/
def State.storeAtI (s : State) (bs : List Byte) : Host.Outcome State Fault Refusal :=
  match s.mem.write s.i.toNat bs with
  | none => s.raise .addressOutOfRange
  | some m => .next (s.setMem m).goNext

/-- `FX33`, store decimal digits (R174). -/
def execStoreBcd (x : Reg) (s : State) : Host.Outcome State Fault Refusal := s.storeAtI (decimalDigits (s.reg x))

/-- `FX55`, store registers (R175): V0 to VX inclusive. -/
def execStoreRegs (x : Reg) (s : State) : Host.Outcome State Fault Refusal := s.storeAtI (s.regsFrom 0 (x.toNat + 1))

/-- `FX65`, load registers (R176): V0 to VX inclusive. -/
def execLoadRegs (x : Reg) (s : State) : Host.Outcome State Fault Refusal :=
  match s.mem.read s.i.toNat (x.toNat + 1) with
  | none => s.raise .addressOutOfRange
  | some bs => .next (s.setRegsFrom 0 bs).goNext

end Sys2Proof.Machine
end

