-- ==== Sys2Proof/Machine/KeyTimer.lean ====
section
/-! DEFINITION. Keys and timers (45_key_timer.md): `EX9E`, `EXA1`, `FX07`, `FX0A`, `FX15`, `FX18`. -/

namespace Sys2Proof.Machine

/-- `EX9E`, skip if key pressed (R160); a key number above 15 raises `KeyIndexOutOfRange` (R162). -/
def execSkp (x : Reg) (s : State) : Host.Outcome State Fault Refusal :=
  if 15 < (s.reg x).toNat then s.raise .keyIndexOutOfRange
  else .next (s.skipIf (s.key (s.reg x).toNat))

/-- `EXA1`, skip if key not pressed (R161); a key number above 15 raises `KeyIndexOutOfRange` (R162). -/
def execSknp (x : Reg) (s : State) : Host.Outcome State Fault Refusal :=
  if 15 < (s.reg x).toNat then s.raise .keyIndexOutOfRange
  else .next (s.skipIf (!s.key (s.reg x).toNat))

/-- `FX07`, read delay timer (R163; log entry 10). -/
def execReadDelay (x : Reg) (s : State) : Host.Outcome State Fault Refusal := .next (s.setReg x s.dt).goNext

/-- `FX0A`, wait for key (R164): level-sensitive (C8). With no key pressed the step changes nothing and succeeds; one
pressed key is the result; among several the result is a free choice (log entry 5). -/
def execWaitKey (x : Reg) (s : State) : Host.Outcome State Fault Refusal :=
  match s.pressedKeys with
  | [] => .next s
  | [k] => .next (s.setReg x (BitVec.ofNat 8 k)).goNext
  | k :: l :: ks => .next ((s.setReg x (BitVec.ofNat 8 (selectKey s.draws (k :: l :: ks)))).countDraw).goNext

/-- `FX15`, set delay timer (R165; log entry 10). -/
def execSetDelay (x : Reg) (s : State) : Host.Outcome State Fault Refusal := .next (s.setDt (s.reg x)).goNext

/-- `FX18`, set sound timer (R166; log entry 10). -/
def execSetSound (x : Reg) (s : State) : Host.Outcome State Fault Refusal := .next (s.setSt (s.reg x)).goNext

end Sys2Proof.Machine
end

