-- ==== Sys2Proof/WellFormed.lean ====
section
/-! DEFINITION. When an instruction's operand values fit their fields (30_encoding.md R71, R73). The field widths
stand in the types of `Instr`, so every term of `Instr` passes (`Sys2Proof.Laws.FieldsFit` proves it constructor by
constructor); the checks below are on plain numbers, as an assembler or a disassembler would meet them. -/

namespace Sys2Proof

/-- The four kinds of operand field of R71. -/
inductive Field where
  | reg    -- `X` or `Y`, 4 bits, names a register
  | imm4   -- `N`
  | imm8   -- `NN`
  | imm12  -- `NNN`
deriving DecidableEq, Repr

/-- The least number that does not fit the field (R71 widths; R73 ranges). -/
def Field.bound : Field → Nat
  | .reg => 16
  | .imm4 => 16
  | .imm8 => 256
  | .imm12 => 4096

/-- A number is an admissible value of a field: there is no reserved value below the bound (R20, R73). -/
def Field.admits (f : Field) (n : Nat) : Bool := n < f.bound

/-- The operand fields of an instruction with their values, leftmost field first (R72). -/
def Instr.operands : Instr → List (Field × Nat)
  | .cls | .ret => []
  | .jp n | .call n | .ldI n | .jpV0 n => [(.imm12, n.toNat)]
  | .seImm x n | .sneImm x n | .ldImm x n | .addImm x n | .rnd x n => [(.reg, x.toNat), (.imm8, n.toNat)]
  | .seReg x y | .sneReg x y | .ldReg x y | .orReg x y | .andReg x y | .xorReg x y | .addReg x y | .subReg x y
  | .shr x y | .subn x y | .shl x y => [(.reg, x.toNat), (.reg, y.toNat)]
  | .drw x y n => [(.reg, x.toNat), (.reg, y.toNat), (.imm4, n.toNat)]
  | .skp x | .sknp x | .readDelay x | .waitKey x | .setDelay x | .setSound x | .addI x | .ldFont x | .storeBcd x
  | .storeRegs x | .loadRegs x => [(.reg, x.toNat)]

/-- Every operand value in a list fits its field. -/
def operandsFit (ops : List (Field × Nat)) : Bool := ops.all fun p => p.1.admits p.2

/-- An instruction is well formed when each of its operand values fits its field. -/
def Instr.wellFormed (i : Instr) : Bool := operandsFit i.operands

end Sys2Proof
end

