-- ==== Sys2Proof/Decode.lean ====
section
/-! DEFINITION. The decoder and the encoder of 30_encoding.md, the opcode table's masks and patterns, and the host's
`decodeTableWord`. -/

namespace Sys2Proof

/-! ### The fields of a word (R71) -/

/-- `F`, the family nibble `op[15:12]`. -/
def fieldF (op : Word) : BitVec 4 := op.extractLsb' 12 4

/-- `X`, `op[11:8]`. -/
def fieldX (op : Word) : Reg := op.extractLsb' 8 4

/-- `Y`, `op[7:4]`. -/
def fieldY (op : Word) : Reg := op.extractLsb' 4 4

/-- `N`, `op[3:0]`. -/
def fieldN (op : Word) : BitVec 4 := op.extractLsb' 0 4

/-- `NN`, `op[7:0]`. -/
def fieldNN (op : Word) : Byte := op.extractLsb' 0 8

/-- `NNN`, `op[11:0]`. -/
def fieldNNN (op : Word) : BitVec 12 := op.extractLsb' 0 12

/-! ### Decoding (R74, R75, R78) -/

/-- Why a word is rejected: no row of R76 selects it (R78). -/
inductive Reject where
  | unknownInstruction
deriving DecidableEq, Repr

/-- Family 0x8, by the sub-opcode `op[3:0]` (R76 rows 10 to 18; SHR 6 and SUBN 7 are R77's reading, log entry 12). -/
def decodeAlu (x y : Reg) : BitVec 4 → Except Reject Instr
  | 0x0#4 => .ok (.ldReg x y)
  | 0x1#4 => .ok (.orReg x y)
  | 0x2#4 => .ok (.andReg x y)
  | 0x3#4 => .ok (.xorReg x y)
  | 0x4#4 => .ok (.addReg x y)
  | 0x5#4 => .ok (.subReg x y)
  | 0x6#4 => .ok (.shr x y)
  | 0x7#4 => .ok (.subn x y)
  | 0xE#4 => .ok (.shl x y)
  | _ => .error .unknownInstruction

/-- Family 0xF, by the sub-opcode `op[7:0]` (R76 rows 26 to 34). -/
def decodeMisc (x : Reg) : Byte → Except Reject Instr
  | 0x07#8 => .ok (.readDelay x)
  | 0x0A#8 => .ok (.waitKey x)
  | 0x15#8 => .ok (.setDelay x)
  | 0x18#8 => .ok (.setSound x)
  | 0x1E#8 => .ok (.addI x)
  | 0x29#8 => .ok (.ldFont x)
  | 0x33#8 => .ok (.storeBcd x)
  | 0x55#8 => .ok (.storeRegs x)
  | 0x65#8 => .ok (.loadRegs x)
  | _ => .error .unknownInstruction

/-- Decoding (R74): by the family nibble first, then by the fixed sub-opcode bits, all of which must match exactly
(R75). Total, and a function of the word alone (R80). -/
def decode (op : Word) : Except Reject Instr :=
  match fieldF op with
  | 0x0#4 =>
    if op = 0x00E0#16 then .ok .cls
    else if op = 0x00EE#16 then .ok .ret
    else .error .unknownInstruction
  | 0x1#4 => .ok (.jp (fieldNNN op))
  | 0x2#4 => .ok (.call (fieldNNN op))
  | 0x3#4 => .ok (.seImm (fieldX op) (fieldNN op))
  | 0x4#4 => .ok (.sneImm (fieldX op) (fieldNN op))
  | 0x5#4 =>
    if fieldN op = 0x0#4 then .ok (.seReg (fieldX op) (fieldY op)) else .error .unknownInstruction
  | 0x6#4 => .ok (.ldImm (fieldX op) (fieldNN op))
  | 0x7#4 => .ok (.addImm (fieldX op) (fieldNN op))
  | 0x8#4 => decodeAlu (fieldX op) (fieldY op) (fieldN op)
  | 0x9#4 =>
    if fieldN op = 0x0#4 then .ok (.sneReg (fieldX op) (fieldY op)) else .error .unknownInstruction
  | 0xA#4 => .ok (.ldI (fieldNNN op))
  | 0xB#4 => .ok (.jpV0 (fieldNNN op))
  | 0xC#4 => .ok (.rnd (fieldX op) (fieldNN op))
  | 0xD#4 => .ok (.drw (fieldX op) (fieldY op) (fieldN op))
  | 0xE#4 =>
    if fieldNN op = 0x9E#8 then .ok (.skp (fieldX op))
    else if fieldNN op = 0xA1#8 then .ok (.sknp (fieldX op))
    else .error .unknownInstruction
  | _ => decodeMisc (fieldX op) (fieldNN op)

/-- The opcode of two consecutive bytes, big-endian: the byte at the lower address is bits 15 to 8
(20_memory.md R51). -/
def joinBytes (hi lo : Byte) : Word := hi ++ lo

/-- The two bytes of an opcode in the order they are stored, high byte at the lower address (R51, R70). -/
def splitWord (op : Word) : List Byte := [op.extractLsb' 8 8, op.extractLsb' 0 8]

/-- Decoding of the two bytes an instruction is stored in. -/
def decodeBytes (hi lo : Byte) : Except Reject Instr := decode (joinBytes hi lo)

/-- The instruction of `nbits` bits whose value is `w`, bit 0 the least significant bit of its one word
(every bit above `nbits` is 0), laid out as the hardware stores it and given to the decoder. -/
def tableWord (nbits w : Nat) : Word := BitVec.ofNat 16 (w % 2 ^ nbits)

/-- The host's question: what this decoder reads from the opcode-table word `w`. -/
def decodeTableWord (nbits w : Nat) : Option Instr :=
  match splitWord (tableWord nbits w) with
  | [hi, lo] => (decodeBytes hi lo).toOption
  | _ => none

/-! ### Encoding (R72, R76) -/

/-- Formats `XYS` and `XYN`: four nibbles. -/
def packXYN (f x y n : BitVec 4) : Word := f ++ x ++ y ++ n

/-- Formats `XNN` and `XSS`: two nibbles and a byte. -/
def packXNN (f x : BitVec 4) (nn : Byte) : Word := f ++ x ++ nn

/-- Format `NNN`: a nibble and a 12-bit immediate. -/
def packNNN (f : BitVec 4) (nnn : BitVec 12) : Word := f ++ nnn

/-- The word of an instruction (R76: pattern and format columns). -/
def encode : Instr → Word
  | .cls => 0x00E0#16
  | .ret => 0x00EE#16
  | .jp nnn => packNNN 0x1 nnn
  | .call nnn => packNNN 0x2 nnn
  | .seImm x nn => packXNN 0x3 x nn
  | .sneImm x nn => packXNN 0x4 x nn
  | .seReg x y => packXYN 0x5 x y 0x0
  | .ldImm x nn => packXNN 0x6 x nn
  | .addImm x nn => packXNN 0x7 x nn
  | .ldReg x y => packXYN 0x8 x y 0x0
  | .orReg x y => packXYN 0x8 x y 0x1
  | .andReg x y => packXYN 0x8 x y 0x2
  | .xorReg x y => packXYN 0x8 x y 0x3
  | .addReg x y => packXYN 0x8 x y 0x4
  | .subReg x y => packXYN 0x8 x y 0x5
  | .shr x y => packXYN 0x8 x y 0x6
  | .subn x y => packXYN 0x8 x y 0x7
  | .shl x y => packXYN 0x8 x y 0xE
  | .sneReg x y => packXYN 0x9 x y 0x0
  | .ldI nnn => packNNN 0xA nnn
  | .jpV0 nnn => packNNN 0xB nnn
  | .rnd x nn => packXNN 0xC x nn
  | .drw x y n => packXYN 0xD x y n
  | .skp x => packXNN 0xE x 0x9E
  | .sknp x => packXNN 0xE x 0xA1
  | .readDelay x => packXNN 0xF x 0x07
  | .waitKey x => packXNN 0xF x 0x0A
  | .setDelay x => packXNN 0xF x 0x15
  | .setSound x => packXNN 0xF x 0x18
  | .addI x => packXNN 0xF x 0x1E
  | .ldFont x => packXNN 0xF x 0x29
  | .storeBcd x => packXNN 0xF x 0x33
  | .storeRegs x => packXNN 0xF x 0x55
  | .loadRegs x => packXNN 0xF x 0x65

/-! ### The opcode table as the spec prints it (R76) -/

/-- One row of R76: the pattern's name, its fixed bits and which bits are fixed. -/
structure OpcodeRow where
  mnemonic : String
  bits : Word
  mask : Word
deriving DecidableEq, Repr

/-- R74: the row selects the word. -/
def OpcodeRow.selects (r : OpcodeRow) (op : Word) : Bool := op &&& r.mask == r.bits

/-- The 34 rows of R76 (`match` and `mask` columns). The decoder does not use them: that it agrees with them is a
statement. -/
def opcodeTable : List OpcodeRow :=
  [⟨"00E0", 0x00E0, 0xFFFF⟩, ⟨"00EE", 0x00EE, 0xFFFF⟩, ⟨"1NNN", 0x1000, 0xF000⟩, ⟨"2NNN", 0x2000, 0xF000⟩] ++
  [⟨"3XNN", 0x3000, 0xF000⟩, ⟨"4XNN", 0x4000, 0xF000⟩, ⟨"5XY0", 0x5000, 0xF00F⟩, ⟨"6XNN", 0x6000, 0xF000⟩] ++
  [⟨"7XNN", 0x7000, 0xF000⟩, ⟨"8XY0", 0x8000, 0xF00F⟩, ⟨"8XY1", 0x8001, 0xF00F⟩, ⟨"8XY2", 0x8002, 0xF00F⟩] ++
  [⟨"8XY3", 0x8003, 0xF00F⟩, ⟨"8XY4", 0x8004, 0xF00F⟩, ⟨"8XY5", 0x8005, 0xF00F⟩, ⟨"8XY6", 0x8006, 0xF00F⟩] ++
  [⟨"8XY7", 0x8007, 0xF00F⟩, ⟨"8XYE", 0x800E, 0xF00F⟩, ⟨"9XY0", 0x9000, 0xF00F⟩, ⟨"ANNN", 0xA000, 0xF000⟩] ++
  [⟨"BNNN", 0xB000, 0xF000⟩, ⟨"CXNN", 0xC000, 0xF000⟩, ⟨"DXYN", 0xD000, 0xF000⟩, ⟨"EX9E", 0xE09E, 0xF0FF⟩] ++
  [⟨"EXA1", 0xE0A1, 0xF0FF⟩, ⟨"FX07", 0xF007, 0xF0FF⟩, ⟨"FX0A", 0xF00A, 0xF0FF⟩, ⟨"FX15", 0xF015, 0xF0FF⟩] ++
  [⟨"FX18", 0xF018, 0xF0FF⟩, ⟨"FX1E", 0xF01E, 0xF0FF⟩, ⟨"FX29", 0xF029, 0xF0FF⟩, ⟨"FX33", 0xF033, 0xF0FF⟩] ++
  [⟨"FX55", 0xF055, 0xF0FF⟩, ⟨"FX65", 0xF065, 0xF0FF⟩]

/-! ### One word of each row, written out from the spec's encoding, and what it decodes to -/

theorem decode_word_cls : decode 0b0000000011100000 = .ok .cls := by decide
theorem decode_word_ret : decode 0b0000000011101110 = .ok .ret := by decide
theorem decode_word_jp : decode 0b0001_0010_0011_0100 = .ok (.jp 0x234) := by decide
theorem decode_word_call : decode 0b0010_0100_0101_0110 = .ok (.call 0x456) := by decide
theorem decode_word_seImm : decode 0b0011_1010_0001_0010 = .ok (.seImm 0xA 0x12) := by decide
theorem decode_word_sneImm : decode 0b0100_1010_0001_0000 = .ok (.sneImm 0xA 0x10) := by decide
theorem decode_word_seReg : decode 0b0101_0001_0010_0000 = .ok (.seReg 1 2) := by decide
theorem decode_word_ldImm : decode 0b0110_1010_0010_1111 = .ok (.ldImm 0xA 0x2F) := by decide
theorem decode_word_addImm : decode 0b0111_0011_1111_0001 = .ok (.addImm 3 0xF1) := by decide
theorem decode_word_ldReg : decode 0b1000_1110_1111_0000 = .ok (.ldReg 0xE 0xF) := by decide
theorem decode_word_orReg : decode 0b1000_0001_0010_0001 = .ok (.orReg 1 2) := by decide
theorem decode_word_andReg : decode 0b1000_0001_0010_0010 = .ok (.andReg 1 2) := by decide
theorem decode_word_xorReg : decode 0b1000_0001_0010_0011 = .ok (.xorReg 1 2) := by decide
theorem decode_word_addReg : decode 0b1000_0101_0110_0100 = .ok (.addReg 5 6) := by decide
theorem decode_word_subReg : decode 0b1000_0101_0110_0101 = .ok (.subReg 5 6) := by decide
theorem decode_word_shr : decode 0b1000_0101_0110_0110 = .ok (.shr 5 6) := by decide
theorem decode_word_subn : decode 0b1000_0101_0110_0111 = .ok (.subn 5 6) := by decide
theorem decode_word_shl : decode 0b1000_0101_0110_1110 = .ok (.shl 5 6) := by decide
theorem decode_word_sneReg : decode 0b1001_0001_0010_0000 = .ok (.sneReg 1 2) := by decide
theorem decode_word_ldI : decode 0b1010_1011_1100_1101 = .ok (.ldI 0xBCD) := by decide
theorem decode_word_jpV0 : decode 0b1011_0011_0000_0001 = .ok (.jpV0 0x301) := by decide
theorem decode_word_rnd : decode 0b1100_0011_0000_1111 = .ok (.rnd 3 0x0F) := by decide
theorem decode_word_drw : decode 0b1101_0001_0010_0101 = .ok (.drw 1 2 5) := by decide
theorem decode_word_skp : decode 0b1110_0001_1001_1110 = .ok (.skp 1) := by decide
theorem decode_word_sknp : decode 0b1110_0001_1010_0001 = .ok (.sknp 1) := by decide
theorem decode_word_readDelay : decode 0b1111_0010_0000_0111 = .ok (.readDelay 2) := by decide
theorem decode_word_waitKey : decode 0b1111_0001_0000_1010 = .ok (.waitKey 1) := by decide
theorem decode_word_setDelay : decode 0b1111_0100_0001_0101 = .ok (.setDelay 4) := by decide
theorem decode_word_setSound : decode 0b1111_0010_0001_1000 = .ok (.setSound 2) := by decide
theorem decode_word_addI : decode 0b1111_0001_0001_1110 = .ok (.addI 1) := by decide
theorem decode_word_ldFont : decode 0b1111_0110_0010_1001 = .ok (.ldFont 6) := by decide
theorem decode_word_storeBcd : decode 0b1111_0111_0011_0011 = .ok (.storeBcd 7) := by decide
theorem decode_word_storeRegs : decode 0b1111_0010_0101_0101 = .ok (.storeRegs 2) := by decide
theorem decode_word_loadRegs : decode 0b1111_0010_0110_0101 = .ok (.loadRegs 2) := by decide

end Sys2Proof
end

