-- ==== Sys2Proof/Machine/Fetch.lean ====
section
/-! DEFINITION. The fetch and decode phases of a step (40_cycle.md R91 to R93), and placing an instruction where the next
step fetches it. -/

namespace Sys2Proof.Machine

/-- Fetch (R92): the two bytes at PC and PC + 1, big-endian; `AddressOutOfRange` when either lies outside MEM. PC may
be odd (R55) and is not changed. -/
def State.fetch (s : State) : Except Cause Word :=
  match s.mem.read s.pc.toNat 2 with
  | some [hi, lo] => .ok (joinBytes hi lo)
  | _ => .error .addressOutOfRange

/-- Fetch, then decode (R91, R93): the first phase that fails gives the error (R206). -/
def State.fetchInstr (s : State) : Except Cause Instr :=
  match s.fetch with
  | .error c => .error c
  | .ok op =>
    match decode op with
    | .ok instr => .ok instr
    | .error .unknownInstruction => .error .unknownInstruction

/-- The word `op` stored big-endian at PC, and the core running, so that the next step fetches and runs it. Where PC
leaves no room for a word in MEM, no fetch is possible and memory stays as it is. -/
def State.placeWord (s : State) (op : Word) : State :=
  match s.mem.write s.pc.toNat (splitWord op) with
  | some m => (s.setMem m).setStatus .running
  | none => s.setStatus .running

end Sys2Proof.Machine
end

