-- ==== Sys2Proof/Machine/Step.lean ====
section
/-! DEFINITION. One step of the core, the event `step` (40_cycle.md R90, R91), and the host's `withFetchWord`. -/

namespace Sys2Proof.Machine

/-- One step: a halted core changes nothing (R90); otherwise fetch and decode (an error of either is raised, R207), then
execute. Every step answers a next state (R97). -/
def step (s : State) : Host.Outcome State Fault Refusal :=
  match s.status with
  | .halted _ => .next s
  | .running =>
    match s.fetchInstr with
    | .error c => s.raise c
    | .ok i => exec i s

/-- `s` with the opcode-table word `w` stored where `step` fetches its next instruction (log entry 8): big-endian at PC,
with the core running. -/
def State.withFetchWord (s : State) (nbits w : Nat) : State := s.placeWord (tableWord nbits w)

end Sys2Proof.Machine
end

