-- ==== Sys2Proof/Machine/Events.lean ====
section
/-! DEFINITION. The three events beside `step`, the outputs, and schedules of events (60_exceptions.md R212 to R227,
70_reset_and_hazards.md R240 to R242; log entry 13). -/

namespace Sys2Proof.Machine

/-- One count of a timer: down by one, never below 0 (R212). -/
def countDown (b : Byte) : Byte := if b = 0 then 0 else b - 1

/-- The event `tick` (R212): both timers, each on its own; also while halted (R215). -/
def State.tick (s : State) : State := (s.setDt (countDown s.dt)).setSt (countDown s.st)

/-- `n` ticks with no other event between them. -/
def State.ticks (s : State) : Nat → State
  | 0 => s
  | n + 1 => State.ticks s.tick n

/-- The event `key_write(k, b)` (R224): `KEY[k] <- b`. A key that is no digit produces no event (U21). -/
def State.keyWrite (s : State) (k : Fin 16) (b : Bool) : State := { s with keys := s.keys.set k.val b k.isLt }

/-- The start of a session (R240 to R242): the state of R39 with the ROM at 0x200, or `LoadError` when it does not fit.
`shiftSrc` is the session's configuration (R141) and `draws` the number of free values consumed before
(log entry 17). -/
def State.boot (shiftSrc : ShiftSrc) (draws : Nat) (rom : List Byte) : Host.Outcome State Fault Refusal :=
  if Config.maxRom < rom.length then .fault .loadError
  else .next { State.reset with
    mem := Memory.setBytes [] Config.progBase rom, shiftSrc := shiftSrc, draws := draws }

/-- The event `reset(rom)` on a live or halted machine (R208, R240): nothing of the old session survives but its
configuration and the count of free values (log entry 17). -/
def State.resetRom (s : State) (rom : List Byte) : Host.Outcome State Fault Refusal :=
  State.boot s.shiftSrc s.draws rom

/-! ### Outputs -/

/-- The sound line `sound_on` (R226): ST is not 0. -/
def State.soundOn (s : State) : Bool := s.st != 0

/-- What an event returns (R200, R96). -/
inductive Result where
  | success
  | error (c : Cause)
  | loadError
deriving DecidableEq, Repr

/-- The numeric code of a result (R200, D3). -/
def Result.code : Result → Nat
  | .success => 0
  | .error .unknownInstruction => 1
  | .error .stackOverflow => 2
  | .error .stackUnderflow => 3
  | .error .addressOutOfRange => 4
  | .error .keyIndexOutOfRange => 5
  | .loadError => 6

/-- What the step that led to this state returned (R96, log entry 2): the cause STATUS holds, or Success. -/
def State.result (s : State) : Result :=
  match s.status with
  | .running => .success
  | .halted c => .error c

/-- What a `step` or a `reset` returned, read off its outcome (R96, R209, R220; `tick` and `key_write` return nothing).
Only `reset` faults, with `LoadError`; no event of this model refuses. -/
def outcomeResult : Host.Outcome State Fault Refusal → Option Result
  | .next s => some s.result
  | .fault .loadError => some .loadError
  | .refused _ => none

/-! ### Schedules (R227) -/

/-- The four events of R220. -/
inductive Event where
  | step
  | tick
  | keyWrite (k : Fin 16) (b : Bool)
  | reset (rom : List Byte)
deriving DecidableEq, Repr

/-- One event, atomic (R227). -/
def Event.apply (e : Event) (s : State) : Host.Outcome State Fault Refusal :=
  match e with
  | .step => Sys2Proof.Machine.step s
  | .tick => .next s.tick
  | .keyWrite k b => .next (s.keyWrite k b)
  | .reset rom => s.resetRom rom

/-- A schedule: the events one after the other. A failed `reset` ends it, since no state exists after it (R242). -/
def runEvents : List Event → State → Host.Outcome State Fault Refusal
  | [], s => .next s
  | e :: es, s =>
    match e.apply s with
    | .next t => runEvents es t
    | .fault r => .fault r
    | .refused r => .refused r

end Sys2Proof.Machine
end

