-- ==== Sys2Proof/Safety.lean ====
section
/-! DEFINITION. What claims are stated in: safe states, finished programs, what a step leaves unchanged, and which
instruction may write which item of state. -/

namespace Sys2Proof.Machine

/-! ### Safe and finished states -/

/-- Nothing has gone wrong (60_exceptions.md R208): STATUS is RUNNING. -/
def State.Safe (s : State) : Prop := s.status = .running

/-- A program that has finished by the convention of 70_reset_and_hazards.md R248: the core runs, PC is at most 0xFFE,
and the word at PC, big-endian, is 0x1000 + PC, a jump to itself. -/
def State.Terminal (s : State) : Prop :=
  s.status = .running ∧ s.pc.toNat ≤ 0xFFE ∧
    joinBytes (s.mem.get s.pc.toNat) (s.mem.get (s.pc.toNat + 1)) = 0x1000#16 + s.pc

/-- The invariant of the machine: MEM is in canonical form, PC is at most 0x10FE (10_state.md R27) and every stack
entry at most 0x1000 (41_control.md R100, R102). -/
structure State.Inv (s : State) : Prop where
  mem : s.mem.wf = true
  pc : s.pc.toNat ≤ 0x10FE
  stack : ∀ (k : Nat) (h : k < 16), s.stack[k].toNat ≤ 0x1000

/-! ### Frames -/

/-- The items of state other than the V registers and PC. -/
inductive Part where
  | i | sp | stack | dt | st | status | mem | fb | keys | shiftSrc | draws
deriving DecidableEq, Repr

/-- Between `s` and `t` only the registers in `regs`, the items in `parts`, and PC may differ. Memory is compared by
reading every byte. -/
structure OnlyWrites (regs : List Reg) (parts : List Part) (s t : State) : Prop where
  reg : ∀ r, r ∉ regs → t.reg r = s.reg r
  i : Part.i ∉ parts → t.i = s.i
  sp : Part.sp ∉ parts → t.sp = s.sp
  stack : Part.stack ∉ parts → t.stack = s.stack
  dt : Part.dt ∉ parts → t.dt = s.dt
  st : Part.st ∉ parts → t.st = s.st
  status : Part.status ∉ parts → t.status = s.status
  mem : Part.mem ∉ parts → ∀ a, t.mem.get a = s.mem.get a
  fb : Part.fb ∉ parts → t.fb = s.fb
  keys : Part.keys ∉ parts → t.keys = s.keys
  shiftSrc : Part.shiftSrc ∉ parts → t.shiftSrc = s.shiftSrc
  draws : Part.draws ∉ parts → t.draws = s.draws

end Sys2Proof.Machine

namespace Sys2Proof

open Sys2Proof.Machine

/-- The flag-writing instructions, exactly (10_state.md R21). -/
def Instr.writesFlag : Instr → Bool
  | .addReg _ _ | .subReg _ _ | .shr _ _ | .subn _ _ | .shl _ _ | .drw _ _ _ => true
  | _ => false

/-- The registers V0 to VX. -/
def regsUpTo (x : Reg) : List Reg := (List.range (x.toNat + 1)).map (BitVec.ofNat 4)

/-- The V registers an instruction may write, its flag among them (R21 and the instruction rules of files 41 to 46). -/
def Instr.regsWritten : Instr → List Reg
  | .cls | .ret | .jp _ | .call _ | .seImm _ _ | .sneImm _ _ | .seReg _ _ | .sneReg _ _ | .ldI _ | .jpV0 _ | .skp _
  | .sknp _ | .setDelay _ | .setSound _ | .addI _ | .ldFont _ | .storeBcd _ | .storeRegs _ => []
  | .ldImm x _ | .addImm x _ | .ldReg x _ | .orReg x _ | .andReg x _ | .xorReg x _ | .rnd x _ | .readDelay x
  | .waitKey x => [x]
  | .addReg x _ | .subReg x _ | .shr x _ | .subn x _ | .shl x _ => [x, VF]
  | .drw _ _ _ => [VF]
  | .loadRegs x => regsUpTo x

/-- The other items of state an instruction may write, PC apart (R23, R28, R29, R30, R31, R32, R35, R56); `status` where it
can raise an error (R204 to R206), `draws` where it consumes a free value (R98). -/
def Instr.partsWritten : Instr → List Part
  | .cls => [.fb]
  | .ret => [.sp, .status]
  | .call _ => [.sp, .stack, .status]
  | .jp _ | .jpV0 _ | .seImm _ _ | .sneImm _ _ | .seReg _ _ | .sneReg _ _ => []
  | .ldImm _ _ | .addImm _ _ | .ldReg _ _ | .orReg _ _ | .andReg _ _ | .xorReg _ _ | .addReg _ _ | .subReg _ _
  | .shr _ _ | .subn _ _ | .shl _ _ | .readDelay _ => []
  | .rnd _ _ | .waitKey _ => [.draws]
  | .drw _ _ _ => [.fb, .status]
  | .skp _ | .sknp _ | .loadRegs _ => [.status]
  | .setDelay _ => [.dt]
  | .setSound _ => [.st]
  | .ldI _ | .addI _ | .ldFont _ => [.i]
  | .storeBcd _ | .storeRegs _ => [.mem, .status]

end Sys2Proof
end

