-- ==== Sys2Proof/Certificates/Slice0/Obligations.lean ====
section
/-! DEFINITION. The statements for the provers, from the numbered rules of spec/. Where a clause rests on a decision, a
derivation or general knowledge that the spec marks as its own, the docstring says so and names it; the log entries are
those of notes/assumptions. -/

open Sys2Proof Sys2Proof.Machine

namespace Sys2Proof.Claims

/-- `i` completes in every state, writes `value s` to VX, goes to the next instruction and writes nothing else. -/
def LoadsReg (i : Instr) (x : Reg) (value : State → Byte) : Prop :=
  ∀ s, ∃ t, exec i s = .next t ∧ t.reg x = value s ∧ t.pc = s.pc + 2 ∧ OnlyWrites [x] [] s t

/-- `i` completes in every state; VF ends as 1 if `flag s` and 0 if not, also when X is F; when X is not F, VX ends as
`value s` modulo 256; `i` goes to the next instruction and writes nothing else. -/
def WritesFlagged (i : Instr) (x : Reg) (value : State → Int) (flag : State → Prop) : Prop :=
  ∀ s, ∃ t, exec i s = .next t ∧ (flag s → t.reg VF = 1) ∧ (¬ flag s → t.reg VF = 0) ∧
    (x ≠ VF → ((t.reg x).toNat : Int) = value s % 256) ∧ t.pc = s.pc + 2 ∧ OnlyWrites [x, VF] [] s t

/-- `i` completes in every state; PC moves by 4 if `c s` and by 2 if not, and nothing else is written. -/
def Skips (i : Instr) (c : State → Prop) : Prop :=
  ∀ s, ∃ t, exec i s = .next t ∧ (c s → t.pc = s.pc + 4) ∧ (¬ c s → t.pc = s.pc + 2) ∧ OnlyWrites [] [] s t

/-- The source of a shift (R141): VY or VX by the session parameter. -/
def shiftSrcReg (s : State) (x y : Reg) : Byte := if s.shiftSrc = .vy then s.reg y else s.reg x

/-- A 1 bit of the sprite of `n` bytes at I lands on the pixel (px, py) (R151): row `row` and column `col` of the sprite,
column `col` being bit `7 - col`, on the wrapped coordinates. -/
def SpriteCovers (s : State) (x y : Reg) (n : BitVec 4) (px py : Nat) : Prop :=
  ∃ row col : Nat, row < n.toNat ∧ col < 8 ∧ (s.mem.get (s.i.toNat + row)).getLsbD (7 - col) = true ∧
    px = ((s.reg x).toNat % 64 + col) % 64 ∧ py = ((s.reg y).toNat % 32 + row) % 32

/-- `t` is, item by item, the state after `reset(rom)` (R39): the session's SHIFT_SRC and the count of free values apart. -/
structure ResetItems (rom : List Byte) (t : State) : Prop where
  reg : ∀ r, t.reg r = 0
  i : t.i = 0
  pc : t.pc = 0x200
  sp : t.sp.val = 0
  stack : ∀ (k : Nat) (h : k < 16), t.stack[k] = 0
  dt : t.dt = 0
  st : t.st = 0
  status : t.status = .running
  font : ∀ a < 0x50, Config.font[a]? = some (t.mem.get a)
  gap : ∀ a, 0x50 ≤ a → a < 0x200 → t.mem.get a = 0
  program : ∀ (j : Nat) (h : j < rom.length), t.mem.get (0x200 + j) = rom[j]
  rest : ∀ a, 0x200 + rom.length ≤ a → a < 4096 → t.mem.get a = 0
  fb : ∀ x y, pixel t.fb x y = false
  keys : ∀ k, t.key k = false
  sound : t.soundOn = false
  memWf : t.mem.wf = true

/-- The big-endian word at PC (R51). -/
def wordAtPc (s : State) : Word := joinBytes (s.mem.get s.pc.toNat) (s.mem.get (s.pc.toNat + 1))

end Sys2Proof.Claims

open Sys2Proof.Claims

/-! ### Encoding (30_encoding.md) -/

/-- Decoding the word of an instruction gives it back, for every instruction and every operand value (R71, R72, R76). -/
def Obligations.DecodeOfEncode : Prop := ∀ i : Instr, decode (encode i) = .ok i

/-- A word that decodes to an instruction is the word of that instruction: no two words mean the same (R74, R76). -/
def Obligations.EncodeOfDecode : Prop := ∀ (op : Word) (i : Instr), decode op = .ok i → encode i = op

/-- Decoding agrees with the opcode table: a word decodes to an instruction of pattern `m` exactly when the one row that
selects it is `m`'s, and no word is selected by two rows (R74, R76; that the rows are disjoint the spec derives). -/
def Obligations.DecodeAgreesWithOpcodeTable : Prop :=
  (∀ op : Word, (decode op).toOption.map Instr.mnemonic =
    (opcodeTable.find? fun r => r.selects op).map OpcodeRow.mnemonic) ∧
  opcodeTable.Pairwise fun r q => ∀ op : Word, ¬ (r.selects op = true ∧ q.selects op = true)

/-- The unknown words are exactly those of R78's list (the exact matching of sub-opcode bits is the spec's decision D15,
log entry 19). -/
def Obligations.UnknownWordsAreExactlyThese : Prop :=
  ∀ op : Word, decode op = .error .unknownInstruction ↔
    (fieldF op = 0x0 ∧ op ≠ 0x00E0 ∧ op ≠ 0x00EE) ∨
    (fieldF op = 0x5 ∧ fieldN op ≠ 0) ∨
    (fieldF op = 0x8 ∧ fieldN op ∈ [0x8#4, 0x9#4, 0xA#4, 0xB#4, 0xC#4, 0xD#4, 0xF#4]) ∨
    (fieldF op = 0x9 ∧ fieldN op ≠ 0) ∨
    (fieldF op = 0xE ∧ fieldNN op ∉ [0x9E#8, 0xA1#8]) ∨
    (fieldF op = 0xF ∧
      fieldNN op ∉ [0x07#8, 0x0A#8, 0x15#8, 0x18#8, 0x1E#8, 0x29#8, 0x33#8, 0x55#8, 0x65#8])

/-- Words of the spec's test vectors decode as the vectors say (95_test_vectors.md T1, T9, T13, T32, T53, T84, T98, T146;
unknown: S10, T25, T164). -/
def Obligations.SampleWordsDecode : Prop :=
  decode 0x00EE = .ok .ret ∧ decode 0x2456 = .ok (.call 0x456) ∧ decode 0xB300 = .ok (.jpV0 0x300) ∧
  decode 0x6A2F = .ok (.ldImm 0xA 0x2F) ∧ decode 0x8014 = .ok (.addReg 0 1) ∧ decode 0xD011 = .ok (.drw 0 1 1) ∧
  decode 0xE19E = .ok (.skp 1) ∧ decode 0xF255 = .ok (.storeRegs 2) ∧
  decode 0x8128 = .error .unknownInstruction ∧ decode 0x5121 = .error .unknownInstruction ∧
  decode 0x0000 = .error .unknownInstruction ∧ decode 0xF030 = .error .unknownInstruction

/-! ### The step (40_cycle.md, 60_exceptions.md) -/

/-- When the core runs and the two bytes at PC decode to a well-formed instruction, a step is that instruction's
execution, with nothing before or after it (R91, R94). -/
def Obligations.StepRunsDecodedInstruction : Prop :=
  ∀ (s : State) (i : Instr), s.status = .running → s.pc.toNat + 1 < 4096 → decode (wordAtPc s) = .ok i →
    i.wellFormed = true → step s = exec i s

/-- `MemRead` of one byte and `MemWrite` of one byte: below 4096 the cell is read, or is written and no other cell with it;
from 4096 on the access is out of range (R50, R52; that every address below 4096 is writable is decision D16, log entry
19). -/
def Obligations.OneByteAccesses : Prop :=
  ∀ (m : Memory) (a : Nat) (b : Byte),
    (a < 4096 → m.read a 1 = some [m.get a] ∧
      ∃ m', m.write a [b] = some m' ∧ ∀ k, m'.get k = if k = a then b else m.get k) ∧
    (4096 ≤ a → m.read a 1 = none ∧ m.write a [b] = none)

/-- Fetch reads the big-endian word at PC and PC + 1, PC odd or even; when either byte lies outside MEM (the second byte is
the spec's derivation) nothing is fetched (R51, R92; that an odd PC is legal is decision D17, log entry 19). -/
def Obligations.FetchIsBigEndianAndRangeChecked : Prop :=
  ∀ s : State,
    (s.pc.toNat + 1 < 4096 → ∃ op, s.fetch = .ok op ∧
      op.toNat = (s.mem.get s.pc.toNat).toNat * 256 + (s.mem.get (s.pc.toNat + 1)).toNat) ∧
    (4096 ≤ s.pc.toNat + 1 → s.fetch = .error .addressOutOfRange)

/-- A running core whose PC is 4095 or more raises `AddressOutOfRange`: STATUS latches it and nothing else changes, PC
included (R92, R207; halting and latching is the spec's decision D1, log entry 19). -/
def Obligations.FetchOutOfRangeHalts : Prop :=
  ∀ s : State, s.status = .running → 4095 ≤ s.pc.toNat →
    step s = .next { s with status := .halted .addressOutOfRange }

/-- A running core whose word at PC is unknown raises `UnknownInstruction`; PC stays at the word (R93, R201; halting and
latching is the spec's decision D1, log entry 19). -/
def Obligations.UnknownWordHalts : Prop :=
  ∀ s : State, s.status = .running → s.pc.toNat + 1 < 4096 → decode (wordAtPc s) = .error .unknownInstruction →
    step s = .next { s with status := .halted .unknownInstruction }

/-- A halted core changes no state on a step and returns its cause again, and no event but `reset` makes it run
(R90, R208; decision D1, log entry 19; that a step's result is read off STATUS is the model's choice, log entry 2). -/
def Obligations.HaltedCoreStaysHalted : Prop :=
  ∀ (s : State) (c : Cause), s.status = .halted c →
    step s = .next s ∧ outcomeResult (step s) = some (.error c) ∧
    ∀ e : Event, (∀ rom, e ≠ .reset rom) → ∃ t, e.apply s = .next t ∧ t.status = .halted c

/-- Every step ends in a next state: none suspends, and none faults or refuses (R97; log entry 1). -/
def Obligations.EveryStepCompletes : Prop := ∀ s : State, ∃ t, step s = .next t

/-- A step of a running core either leaves STATUS at RUNNING and succeeds, or raises one error: then STATUS alone changes and
the step returns the cause (R95, R96, R207; precise errors are the spec's decision D2 and halting with the cause latched is
decision D1, log entry 19; that a step's result is read off STATUS is the model's choice, log entry 2). -/
def Obligations.ErrorStepChangesOnlyStatus : Prop :=
  ∀ s t : State, s.status = .running → step s = .next t →
    (t.status = .running ∧ outcomeResult (step s) = some .success) ∨
    ∃ c, t = { s with status := .halted c } ∧ outcomeResult (step s) = some (.error c)

/-- Which instruction raises which error, and when: no other instruction raises any in its execute phase
(R202 to R206; `KeyIndexOutOfRange` is the spec's decision D12, log entry 19). -/
def Obligations.ErrorsByInstruction : Prop :=
  ∀ (i : Instr) (s t : State) (c : Cause), s.status = .running → exec i s = .next t → t.status = .halted c →
    (i = .ret ∧ c = .stackUnderflow ∧ s.sp.val = 0) ∨
    (∃ nnn, i = .call nnn ∧ c = .stackOverflow ∧ s.sp.val = 16) ∨
    (∃ x y n, i = .drw x y n ∧ c = .addressOutOfRange ∧ 0 < n.toNat ∧ 4096 ≤ s.i.toNat + n.toNat - 1) ∨
    (∃ x, i = .storeBcd x ∧ c = .addressOutOfRange ∧ 4096 ≤ s.i.toNat + 2) ∨
    (∃ x, (i = .storeRegs x ∨ i = .loadRegs x) ∧ c = .addressOutOfRange ∧ 4096 ≤ s.i.toNat + x.toNat) ∨
    (∃ x, (i = .skp x ∨ i = .sknp x) ∧ c = .keyIndexOutOfRange ∧ 15 < (s.reg x).toNat)

/-! ### Control transfer (41_control.md) -/

/-- `00EE`: with SP above 0 it decrements SP and jumps to the entry there, all 16 bits, leaving the entry; with SP = 0 it
raises `StackUnderflow` (R100; not clearing the entry is decision D27, halting decision D1, log entry 19). -/
def Obligations.ReturnPopsTheStack : Prop :=
  decode 0x00EE = .ok .ret ∧
  (∀ (s : State) (h : 0 < s.sp.val), ∃ t, exec .ret s = .next t ∧ t.sp.val = s.sp.val - 1 ∧
    t.pc = s.stack[s.sp.val - 1]'(by omega) ∧ OnlyWrites [] [.sp] s t) ∧
  (∀ s : State, s.sp.val = 0 → exec .ret s = .next { s with status := .halted .stackUnderflow })

/-- `1NNN`: PC becomes NNN, unchecked (R101; that the target is not checked is decision D28, log entry 19). -/
def Obligations.JumpSetsPc : Prop :=
  (∀ op, fieldF op = 0x1 → decode op = .ok (.jp (fieldNNN op))) ∧
  ∀ (nnn : BitVec 12) (s : State), ∃ t, exec (.jp nnn) s = .next t ∧ t.pc.toNat = nnn.toNat ∧ OnlyWrites [] [] s t

/-- `2NNN`: with SP below 16 it stores the address of the next instruction at SP, increments SP and jumps to NNN; the other
entries stay; with SP = 16 it raises `StackOverflow` (R102; halting is decision D1, log entry 19). -/
def Obligations.CallPushesReturnAddress : Prop :=
  (∀ op, fieldF op = 0x2 → decode op = .ok (.call (fieldNNN op))) ∧
  (∀ (nnn : BitVec 12) (s : State) (h : s.sp.val < 16), ∃ t, exec (.call nnn) s = .next t ∧
    t.stack[s.sp.val] = s.pc + 2 ∧ (∀ (k : Nat) (hk : k < 16), k ≠ s.sp.val → t.stack[k] = s.stack[k]) ∧
    t.sp.val = s.sp.val + 1 ∧ t.pc.toNat = nnn.toNat ∧ OnlyWrites [] [.sp, .stack] s t) ∧
  (∀ (nnn : BitVec 12) (s : State), s.sp.val = 16 →
    exec (.call nnn) s = .next { s with status := .halted .stackOverflow })

/-- `BNNN`: PC becomes NNN + V0, not reduced; the register is V0 whatever the word's X (R103; not reducing is the spec's
derivation, decision D28, log entry 19). -/
def Obligations.JumpWithOffsetAddsV0 : Prop :=
  (∀ op, fieldF op = 0xB → decode op = .ok (.jpV0 (fieldNNN op))) ∧
  ∀ (nnn : BitVec 12) (s : State), ∃ t, exec (.jpV0 nnn) s = .next t ∧
    t.pc.toNat = nnn.toNat + (s.reg 0).toNat ∧ OnlyWrites [] [] s t

/-- `3XNN` skips if VX = NN and `4XNN` if VX is not NN; they write nothing but PC (R105, R106). -/
def Obligations.SkipOnImmediate : Prop :=
  (∀ op, fieldF op = 0x3 → decode op = .ok (.seImm (fieldX op) (fieldNN op))) ∧
  (∀ op, fieldF op = 0x4 → decode op = .ok (.sneImm (fieldX op) (fieldNN op))) ∧
  ∀ (x : Reg) (nn : Byte), Skips (.seImm x nn) (fun s => s.reg x = nn) ∧ Skips (.sneImm x nn) (fun s => s.reg x ≠ nn)

/-- `5XY0` skips if VX = VY and `9XY0` if not, and both need N = 0; they write nothing but PC (R107, R108; that a word with
N not 0 is unknown is decision D15, log entry 19). -/
def Obligations.SkipOnRegisters : Prop :=
  (∀ op, fieldF op = 0x5 → decode op =
    if fieldN op = 0 then .ok (.seReg (fieldX op) (fieldY op)) else .error .unknownInstruction) ∧
  (∀ op, fieldF op = 0x9 → decode op =
    if fieldN op = 0 then .ok (.sneReg (fieldX op) (fieldY op)) else .error .unknownInstruction) ∧
  ∀ x y : Reg, Skips (.seReg x y) (fun s => s.reg x = s.reg y) ∧ Skips (.sneReg x y) (fun s => s.reg x ≠ s.reg y)

/-! ### Constants and random (42_const_random.md) -/

/-- `6XNN`: VX becomes NN, nothing else but PC changes (R120). -/
def Obligations.LoadImmediate : Prop :=
  (∀ op, fieldF op = 0x6 → decode op = .ok (.ldImm (fieldX op) (fieldNN op))) ∧
  ∀ (x : Reg) (nn : Byte), LoadsReg (.ldImm x nn) x (fun _ => nn)

/-- `7XNN`: VX becomes (VX + NN) mod 256; VF keeps its value unless X is F (R121). -/
def Obligations.AddImmediateWithoutFlag : Prop :=
  (∀ op, fieldF op = 0x7 → decode op = .ok (.addImm (fieldX op) (fieldNN op))) ∧
  ∀ (x : Reg) (nn : Byte) (s : State), ∃ t, exec (.addImm x nn) s = .next t ∧
    (t.reg x).toNat = ((s.reg x).toNat + nn.toNat) % 256 ∧ (x ≠ VF → t.reg VF = s.reg VF) ∧
    t.pc = s.pc + 2 ∧ OnlyWrites [x] [] s t

/-- `CXNN`: VX becomes the draw masked by NN, so every bit clear in NN is clear in VX; the draw is the free byte of this
execution and the next execution has another (R122; a draw under no law is decision D14, log entry 4). -/
def Obligations.RandomUnderMask : Prop :=
  (∀ op, fieldF op = 0xC → decode op = .ok (.rnd (fieldX op) (fieldNN op))) ∧
  ∀ (x : Reg) (nn : Byte) (s : State), ∃ t, exec (.rnd x nn) s = .next t ∧
    t.reg x = Config.randByte s.draws &&& nn ∧ t.reg x &&& ~~~nn = 0 ∧ t.draws = s.draws + 1 ∧
    t.pc = s.pc + 2 ∧ OnlyWrites [x] [.draws] s t

/-! ### The ALU group (43_alu.md) -/

/-- `8XY0`, `8XY1`, `8XY2`, `8XY3`: VX becomes VY, or the bitwise OR, AND, XOR of VX and VY; VF stays unless X is F
(R131 to R134; that VF stays is decision D8, log entry 19). -/
def Obligations.AssignAndLogic : Prop :=
  (∀ op, fieldF op = 0x8 →
    (fieldN op = 0x0 → decode op = .ok (.ldReg (fieldX op) (fieldY op))) ∧
    (fieldN op = 0x1 → decode op = .ok (.orReg (fieldX op) (fieldY op))) ∧
    (fieldN op = 0x2 → decode op = .ok (.andReg (fieldX op) (fieldY op))) ∧
    (fieldN op = 0x3 → decode op = .ok (.xorReg (fieldX op) (fieldY op)))) ∧
  ∀ x y : Reg,
    LoadsReg (.ldReg x y) x (fun s => s.reg y) ∧
    LoadsReg (.orReg x y) x (fun s => s.reg x ||| s.reg y) ∧
    LoadsReg (.andReg x y) x (fun s => s.reg x &&& s.reg y) ∧
    LoadsReg (.xorReg x y) x (fun s => s.reg x ^^^ s.reg y)

/-- `8XY4`: VX becomes the sum mod 256, then VF 1 if the sum exceeds 255, else 0 (R135). -/
def Obligations.AddWithCarryFlag : Prop :=
  (∀ op, fieldF op = 0x8 → fieldN op = 0x4 → decode op = .ok (.addReg (fieldX op) (fieldY op))) ∧
  ∀ x y : Reg, WritesFlagged (.addReg x y) x (fun s => (s.reg x).toNat + (s.reg y).toNat)
    (fun s => 255 < (s.reg x).toNat + (s.reg y).toNat)

/-- `8XY5`: VX becomes (VX - VY) mod 256, then VF 1 if VX was at least VY, else 0 (R136; which of the two
conventions VF follows is decision D7, log entry 19). -/
def Obligations.SubtractWithNoBorrowFlag : Prop :=
  (∀ op, fieldF op = 0x8 → fieldN op = 0x5 → decode op = .ok (.subReg (fieldX op) (fieldY op))) ∧
  ∀ x y : Reg, WritesFlagged (.subReg x y) x (fun s => ((s.reg x).toNat : Int) - (s.reg y).toNat)
    (fun s => (s.reg y).toNat ≤ (s.reg x).toNat)

/-- `8XY7`: VX becomes (VY - VX) mod 256, then VF 1 if VY was at least VX, else 0 (R138; the flag's convention is
decision D7, log entry 19; sub-opcode 7 is from general knowledge, R77, log entry 12). -/
def Obligations.ReverseSubtractWithNoBorrowFlag : Prop :=
  (∀ op, fieldF op = 0x8 → fieldN op = 0x7 → decode op = .ok (.subn (fieldX op) (fieldY op))) ∧
  ∀ x y : Reg, WritesFlagged (.subn x y) x (fun s => ((s.reg y).toNat : Int) - (s.reg x).toNat)
    (fun s => (s.reg x).toNat ≤ (s.reg y).toNat)

/-- `8XY6`: VX becomes the source halved, then VF bit 0 of the source, for both settings of SHIFT_SRC (R137, R141, decision
D6, log entry 3; sub-opcode 6 is from general knowledge, R77, log entry 12). -/
def Obligations.ShiftRightByOne : Prop :=
  (∀ op, fieldF op = 0x8 → fieldN op = 0x6 → decode op = .ok (.shr (fieldX op) (fieldY op))) ∧
  ∀ x y : Reg, WritesFlagged (.shr x y) x (fun s => ((shiftSrcReg s x y).toNat : Int) / 2)
    (fun s => (shiftSrcReg s x y).toNat % 2 = 1)

/-- `8XYE`: VX becomes the source doubled mod 256, then VF bit 7 of the source, for both settings of SHIFT_SRC
(R139, R141, decision D6, log entry 3). -/
def Obligations.ShiftLeftByOne : Prop :=
  (∀ op, fieldF op = 0x8 → fieldN op = 0xE → decode op = .ok (.shl (fieldX op) (fieldY op))) ∧
  ∀ x y : Reg, WritesFlagged (.shl x y) x (fun s => ((shiftSrcReg s x y).toNat : Int) * 2)
    (fun s => (shiftSrcReg s x y).toNat / 128 = 1)

/-! ### Framebuffer (44_display.md) -/

/-- `00E0`: every pixel becomes 0; VF and everything else but PC stay (R150; that VF stays is decision D8, log entry 19). -/
def Obligations.ClearFramebuffer : Prop :=
  decode 0x00E0 = .ok .cls ∧
  ∀ s : State, ∃ t, exec .cls s = .next t ∧ (∀ x y, pixel t.fb x y = false) ∧ t.pc = s.pc + 2 ∧
    OnlyWrites [] [.fb] s t

/-- `DXYN` in range: exactly the pixels a 1 bit of the sprite lands on change, each to its opposite; VF is 1 if one of them
was set, else 0; I and memory stay; with N = 0 nothing is read (R151; bit 7 leftmost is from general knowledge, decision
D18, log entry 11; I unchanged is decision D10, log entry 19). -/
def Obligations.DrawXorsTheSprite : Prop :=
  (∀ op, fieldF op = 0xD → decode op = .ok (.drw (fieldX op) (fieldY op) (fieldN op))) ∧
  ∀ (x y : Reg) (n : BitVec 4) (s : State), (n.toNat = 0 ∨ s.i.toNat + n.toNat - 1 < 4096) →
    ∃ t, exec (.drw x y n) s = .next t ∧
      (∀ px py, SpriteCovers s x y n px py → pixel t.fb px py = !pixel s.fb px py) ∧
      (∀ px py, ¬ SpriteCovers s x y n px py → pixel t.fb px py = pixel s.fb px py) ∧
      ((∃ px py, SpriteCovers s x y n px py ∧ pixel s.fb px py = true) → t.reg VF = 1) ∧
      ((¬ ∃ px py, SpriteCovers s x y n px py ∧ pixel s.fb px py = true) → t.reg VF = 0) ∧
      t.pc = s.pc + 2 ∧ OnlyWrites [VF] [.fb] s t

/-- Drawing the same sprite twice at the same place restores the framebuffer, and the second draw's VF is 1 exactly when a
1 bit lands on a pixel the first draw set (R152, derived by the spec; bit 7 leftmost is from general knowledge, decision D18, log
entry 11; that I is unchanged for the second draw is decision D10, log entry 19). X and Y are not F, since the first draw
writes VF, which is the place. -/
def Obligations.DrawTwiceRestores : Prop :=
  ∀ (x y : Reg) (n : BitVec 4) (s : State), x ≠ VF → y ≠ VF → (n.toNat = 0 ∨ s.i.toNat + n.toNat - 1 < 4096) →
    ∃ t u, exec (.drw x y n) s = .next t ∧ exec (.drw x y n) t = .next u ∧ u.fb = s.fb ∧
      (u.reg VF = 1 ↔ ∃ px py, SpriteCovers s x y n px py ∧ pixel s.fb px py = false)

/-! ### Keys and timers (45_key_timer.md, 60_exceptions.md) -/

/-- `EX9E` skips if the key of number VX is pressed and `EXA1` if it is not, for a number up to 15 (R160, R161). -/
def Obligations.SkipOnKey : Prop :=
  (∀ op, fieldF op = 0xE → fieldNN op = 0x9E → decode op = .ok (.skp (fieldX op))) ∧
  (∀ op, fieldF op = 0xE → fieldNN op = 0xA1 → decode op = .ok (.sknp (fieldX op))) ∧
  ∀ (x : Reg) (s : State), (s.reg x).toNat ≤ 15 →
    (∃ t, exec (.skp x) s = .next t ∧ OnlyWrites [] [] s t ∧
      t.pc = if s.key (s.reg x).toNat = true then s.pc + 4 else s.pc + 2) ∧
    (∃ t, exec (.sknp x) s = .next t ∧ OnlyWrites [] [] s t ∧
      t.pc = if s.key (s.reg x).toNat = true then s.pc + 2 else s.pc + 4)

/-- `EX9E` and `EXA1` with VX above 15 raise `KeyIndexOutOfRange`, whatever the keys (R162, R205: the spec's decision D12,
log entry 19). -/
def Obligations.KeyNumberAbove15Halts : Prop :=
  ∀ (x : Reg) (s : State), 15 < (s.reg x).toNat →
    exec (.skp x) s = .next { s with status := .halted .keyIndexOutOfRange } ∧
    exec (.sknp x) s = .next { s with status := .halted .keyIndexOutOfRange }

/-- `FX07`: VX becomes DT (R163: the assignment of FX07 to this read is from general knowledge, decision D19, log entry
10). -/
def Obligations.ReadDelayTimer : Prop :=
  (∀ op, fieldF op = 0xF → fieldNN op = 0x07 → decode op = .ok (.readDelay (fieldX op))) ∧
  ∀ x : Reg, LoadsReg (.readDelay x) x (fun s => s.dt)

/-- `FX0A`: with no key pressed the step changes nothing, PC included; with a key pressed VX becomes the number of a pressed
key, whichever the free choice is, and PC goes on (R164; level-sensitive and any choice are decision D13, log entry 5). -/
def Obligations.WaitForKey : Prop :=
  (∀ op, fieldF op = 0xF → fieldNN op = 0x0A → decode op = .ok (.waitKey (fieldX op))) ∧
  (∀ (x : Reg) (s : State), (∀ k < 16, s.key k = false) → exec (.waitKey x) s = .next s) ∧
  (∀ (x : Reg) (s : State), (∃ k < 16, s.key k = true) →
    ∃ t, exec (.waitKey x) s = .next t ∧ (∃ k < 16, s.key k = true ∧ (t.reg x).toNat = k) ∧
      t.pc = s.pc + 2 ∧ OnlyWrites [x] [.draws] s t)

/-- `FX15`: DT becomes VX; `FX18`: ST becomes VX, and the sound line follows at once (R165, R166: which opcode writes which
timer is from general knowledge, decision D19, log entry 10). -/
def Obligations.SetTimers : Prop :=
  (∀ op, fieldF op = 0xF → fieldNN op = 0x15 → decode op = .ok (.setDelay (fieldX op))) ∧
  (∀ op, fieldF op = 0xF → fieldNN op = 0x18 → decode op = .ok (.setSound (fieldX op))) ∧
  ∀ (x : Reg) (s : State),
    (∃ t, exec (.setDelay x) s = .next t ∧ t.dt = s.reg x ∧ t.pc = s.pc + 2 ∧ OnlyWrites [] [.dt] s t) ∧
    (∃ t, exec (.setSound x) s = .next t ∧ t.st = s.reg x ∧ (t.soundOn = true ↔ s.reg x ≠ 0) ∧ t.pc = s.pc + 2 ∧
      OnlyWrites [] [.st] s t)

/-! ### Index register and memory (46_index_memory.md) -/

/-- `ANNN`: I becomes NNN, with bits 15 to 12 zero (R170). -/
def Obligations.LoadIndex : Prop :=
  (∀ op, fieldF op = 0xA → decode op = .ok (.ldI (fieldNNN op))) ∧
  ∀ (nnn : BitVec 12) (s : State), ∃ t, exec (.ldI nnn) s = .next t ∧ t.i.toNat = nnn.toNat ∧ t.pc = s.pc + 2 ∧
    OnlyWrites [] [.i] s t

/-- `FX1E`: I becomes (I + VX) mod 65536; VF stays (R171; that VF stays is decision D8, log entry 19). -/
def Obligations.AddToIndex : Prop :=
  (∀ op, fieldF op = 0xF → fieldNN op = 0x1E → decode op = .ok (.addI (fieldX op))) ∧
  ∀ (x : Reg) (s : State), ∃ t, exec (.addI x) s = .next t ∧
    t.i.toNat = (s.i.toNat + (s.reg x).toNat) % 65536 ∧ t.pc = s.pc + 2 ∧ OnlyWrites [] [.i] s t

/-- `FX29`: I becomes 5 times VX, the whole byte with no mask; for a digit up to 15 the five bytes from there are that glyph's
after reset (R172; no masking is decision D11, log entry 19; the glyph bytes are PRESUMED, log entry 7). -/
def Obligations.FontGlyphAddress : Prop :=
  (∀ op, fieldF op = 0xF → fieldNN op = 0x29 → decode op = .ok (.ldFont (fieldX op))) ∧
  ∀ (x : Reg) (s : State), ∃ t, exec (.ldFont x) s = .next t ∧ t.i.toNat = (s.reg x).toNat * 5 ∧ t.pc = s.pc + 2 ∧
    OnlyWrites [] [.i] s t ∧
    ((s.reg x).toNat ≤ 15 → ∀ k < 5,
      Config.font[(s.reg x).toNat * 5 + k]? = some (State.reset.mem.get (t.i.toNat + k)))

/-- `FX33` in range: the hundreds, tens and units of VX at I, I + 1, I + 2; every other byte stays, I too (R174; I unchanged is
decision D10, log entry 19). -/
def Obligations.StoreDecimalDigits : Prop :=
  (∀ op, fieldF op = 0xF → fieldNN op = 0x33 → decode op = .ok (.storeBcd (fieldX op))) ∧
  ∀ (x : Reg) (s : State), s.i.toNat + 2 < 4096 →
    ∃ t, exec (.storeBcd x) s = .next t ∧
      (t.mem.get s.i.toNat).toNat = (s.reg x).toNat / 100 ∧
      (t.mem.get (s.i.toNat + 1)).toNat = (s.reg x).toNat / 10 % 10 ∧
      (t.mem.get (s.i.toNat + 2)).toNat = (s.reg x).toNat % 10 ∧
      (∀ a, a < s.i.toNat ∨ s.i.toNat + 2 < a → t.mem.get a = s.mem.get a) ∧
      t.pc = s.pc + 2 ∧ OnlyWrites [] [.mem] s t

/-- `FX55` in range: V0 to VX inclusive at I to I + X, lowest register at the lowest address; every other byte stays, I too
(R175; I unchanged is decision D10, log entry 19). -/
def Obligations.StoreRegisters : Prop :=
  (∀ op, fieldF op = 0xF → fieldNN op = 0x55 → decode op = .ok (.storeRegs (fieldX op))) ∧
  ∀ (x : Reg) (s : State), s.i.toNat + x.toNat < 4096 →
    ∃ t, exec (.storeRegs x) s = .next t ∧
      (∀ k : Reg, k.toNat ≤ x.toNat → t.mem.get (s.i.toNat + k.toNat) = s.reg k) ∧
      (∀ a, a < s.i.toNat ∨ s.i.toNat + x.toNat < a → t.mem.get a = s.mem.get a) ∧
      t.pc = s.pc + 2 ∧ OnlyWrites [] [.mem] s t

/-- `FX65` in range: V0 to VX inclusive become the bytes at I to I + X; the registers above X, memory and I stay
(R176; I unchanged is decision D10, log entry 19). -/
def Obligations.LoadRegisters : Prop :=
  (∀ op, fieldF op = 0xF → fieldNN op = 0x65 → decode op = .ok (.loadRegs (fieldX op))) ∧
  ∀ (x : Reg) (s : State), s.i.toNat + x.toNat < 4096 →
    ∃ t, exec (.loadRegs x) s = .next t ∧
      (∀ k : Reg, k.toNat ≤ x.toNat → t.reg k = s.mem.get (s.i.toNat + k.toNat)) ∧
      (∀ k : Reg, x.toNat < k.toNat → t.reg k = s.reg k) ∧
      t.pc = s.pc + 2 ∧ OnlyWrites (regsUpTo x) [] s t

/-- `DXYN`, `FX33`, `FX55`, `FX65` out of range raise `AddressOutOfRange`, with no partial effect and no masking of I
(R151, R173, R204; decisions D2, D9, log entry 19). -/
def Obligations.MemoryRangeErrors : Prop :=
  ∀ (x y : Reg) (n : BitVec 4) (s : State),
    (0 < n.toNat → 4096 ≤ s.i.toNat + n.toNat - 1 →
      exec (.drw x y n) s = .next { s with status := .halted .addressOutOfRange }) ∧
    (4096 ≤ s.i.toNat + 2 → exec (.storeBcd x) s = .next { s with status := .halted .addressOutOfRange }) ∧
    (4096 ≤ s.i.toNat + x.toNat →
      exec (.storeRegs x) s = .next { s with status := .halted .addressOutOfRange } ∧
      exec (.loadRegs x) s = .next { s with status := .halted .addressOutOfRange })

/-! ### The whole machine -/

/-- No instruction writes a register or an item of state other than those its rule names: I only by ANNN, FX1E, FX29; SP only
by 2NNN, 00EE; STACK only by 2NNN; DT only by FX15; ST only by FX18; MEM only by FX33, FX55; FB only by 00E0, DXYN; KEY and
SHIFT_SRC by none (R21, R23, R28, R29, R30, R31, R35, R36, R56, R141; decisions D8, D10, log entry 19; which opcodes are
FX15 and FX18 is from general knowledge, decision D19, log entry 10; SHIFT_SRC and the count of free values are the model's
fields, log entries 3 and 6). -/
def Obligations.InstructionsWriteOnlyTheirOwn : Prop :=
  ∀ (i : Instr) (s t : State), exec i s = .next t → OnlyWrites i.regsWritten i.partsWritten s t

/-- A flag-writing instruction that completes leaves VF at 0 or 1, also when X is F; any other instruction changes VF only
when VF is its destination (R21, R22; decision D8, log entry 19). -/
def Obligations.FlagIsWrittenByFlagInstructionsOnly : Prop :=
  ∀ (i : Instr) (s t : State), s.status = .running → exec i s = .next t → t.status = .running →
    (i.writesFlag = true → t.reg VF = 0 ∨ t.reg VF = 1) ∧
    (i.writesFlag = false → VF ∉ i.regsWritten → t.reg VF = s.reg VF)

/-- A store is seen by the very next fetch: `FX55` of two or more registers to the address after itself makes the word V0 V1 the
next one fetched (R64, derived by the spec). -/
def Obligations.StoreIsSeenByNextFetch : Prop :=
  ∀ (x : Reg) (s : State), 1 ≤ x.toNat → s.i.toNat = s.pc.toNat + 2 → s.i.toNat + x.toNat < 4096 →
    ∃ t, exec (.storeRegs x) s = .next t ∧ t.fetch = .ok (joinBytes (s.reg 0) (s.reg 1))

/-- A call followed by a return comes back to the instruction after the call with SP as before; the stack entry at SP then
holds the return address, every other entry is as before, and nothing else is different (R100, R102; 95_test_vectors.md S5;
that the entry is not cleared is decision D27, log entry 19). -/
def Obligations.CallThenReturnComesBack : Prop :=
  ∀ (nnn : BitVec 12) (s : State) (h : s.sp.val < 16),
    ∃ t u, exec (.call nnn) s = .next t ∧ exec .ret t = .next u ∧ u.pc = s.pc + 2 ∧ u.sp = s.sp ∧
      u.stack[s.sp.val] = s.pc + 2 ∧ (∀ (k : Nat) (hk : k < 16), k ≠ s.sp.val → u.stack[k] = s.stack[k]) ∧
      OnlyWrites [] [.stack] s u

/-- A finished program stays where it is: a step of a self-jump changes nothing at all (R248: the self-jump as the end of a
program is the spec's convention, decision D24, log entry 19). -/
def Obligations.SelfJumpChangesNothing : Prop := ∀ s : State, s.Terminal → step s = .next s

/-- Memories in canonical form that read the same at every address are the same list (log entry 9). -/
def Obligations.CanonicalMemoriesAreEqualData : Prop :=
  ∀ m m' : Memory, m.wf = true → m'.wf = true → (∀ a < 4096, m.get a = m'.get a) → m = m'

/-! ### Events and outputs (60_exceptions.md, 70_reset_and_hazards.md) -/

/-- `tick` counts each timer down by one unless it is 0, each on its own, and changes nothing else (R212), halted or not
(R215, decision D23, log entry 19). -/
def Obligations.TickCountsDown : Prop :=
  ∀ s : State,
    (0 < s.dt.toNat → s.tick.dt.toNat + 1 = s.dt.toNat) ∧ (s.dt.toNat = 0 → s.tick.dt = s.dt) ∧
    (0 < s.st.toNat → s.tick.st.toNat + 1 = s.st.toNat) ∧ (s.st.toNat = 0 → s.tick.st = s.st) ∧
    s.tick.pc = s.pc ∧ OnlyWrites [] [.dt, .st] s s.tick

/-- After n ticks a timer that held D holds max(0, D - n) (R213; 95_test_vectors.md S8). -/
def Obligations.TimersAreMonotone : Prop :=
  ∀ (n : Nat) (s : State), ((s.ticks n).dt.toNat : Int) = max 0 ((s.dt.toNat : Int) - n) ∧
    ((s.ticks n).st.toNat : Int) = max 0 ((s.st.toNat : Int) - n)

/-- The sound line is 1 exactly when ST is not 0, and falls to 0 within 255 ticks, halted or not, with STATUS unchanged
(R215, R226: the bit is decision D26, ticking while halted decision D23, log entry 19). -/
def Obligations.SoundLineFallsWithin255Ticks : Prop :=
  (∀ s : State, s.soundOn = true ↔ s.st ≠ 0) ∧
  ∀ (n : Nat) (s : State), 255 ≤ n → (s.ticks n).soundOn = false ∧ (s.ticks n).status = s.status

/-- `key_write(k, b)` sets `KEY[k]` to b and changes nothing else (R224). -/
def Obligations.KeyWriteSetsOneKey : Prop :=
  ∀ (s : State) (k : Fin 16) (b : Bool),
    (∀ j < 16, (s.keyWrite k b).key j = if j = k.val then b else s.key j) ∧
    (s.keyWrite k b).pc = s.pc ∧ OnlyWrites [] [.keys] s (s.keyWrite k b)

/-- `reset(rom)` with a ROM of at most 3584 bytes, at the start of a session and on any machine, halted or not, builds the
state of R39, item by item; nothing of the old session survives but its SHIFT_SRC and the count of free values; the reset
state of the model is that of the empty ROM (R39, R208, R240; PC = 0x200 is decision D4, the values of D5 and STATUS, D1, log
entry 19; the font bytes are PRESUMED, log entry 7; the canonical form of memory is the model's, log entry 9; SHIFT_SRC and
the count of free values are the model's fields, log entries 3, 6, 8, 17; the event reset as a function beside step is log
entry 13). -/
def Obligations.ResetBuildsTheWholeState : Prop :=
  (∀ (src : ShiftSrc) (d : Nat) (rom : List Byte), rom.length ≤ 3584 →
    ∃ t, State.boot src d rom = .next t ∧ ResetItems rom t ∧ t.shiftSrc = src ∧ t.draws = d) ∧
  (∀ (s : State) (rom : List Byte), rom.length ≤ 3584 →
    ∃ t, s.resetRom rom = .next t ∧ (Event.reset rom).apply s = .next t ∧ ResetItems rom t ∧
      t.shiftSrc = s.shiftSrc ∧ t.draws = s.draws) ∧
  State.boot .vy 0 [] = .next State.reset

/-- `reset(rom)` with a ROM of more than 3584 bytes fails with `LoadError` and leaves no state (R209, R242; the model's fault for
it is log entry 15). -/
def Obligations.LongRomIsALoadError : Prop :=
  ∀ (s : State) (rom : List Byte), 3584 < rom.length →
    s.resetRom rom = .fault .loadError ∧ outcomeResult (s.resetRom rom) = some .loadError

/-! ### The invariant -/

/-- The invariant holds right after reset of the empty ROM (R39; the reset state as the empty ROM's is log entry 8, the
canonical form of memory is the model's, log entry 9; PC = 0x200 is decision D4, log entry 19). -/
def Obligations.InvariantHoldsAtReset : Prop := State.reset.Inv

/-- Every step keeps the invariant: MEM in canonical form, PC at most 0x10FE (R27), every stack entry at most 0x1000
(R100, R102; both bounds are the spec's derivations; the canonical form is the model's own, log entry 9). -/
def Obligations.StepKeepsInvariant : Prop := ∀ s t : State, s.Inv → step s = .next t → t.Inv

/-- Every schedule of events keeps the invariant: `tick`, `key_write` and `reset` among the steps (R227, decision D22, log entries 13
and 19; the canonical form of memory is the model's own, log entry 9). -/
def Obligations.SchedulesKeepInvariant : Prop :=
  ∀ (es : List Event) (s t : State), s.Inv → runEvents es s = .next t → t.Inv
end

