-- ==== Sys2Proof/Laws/Decode.lean ====
section
/-! SUPPORT. The fields of a packed word and the packing of a word's fields: what the decoder and the encoder share. -/

namespace Sys2Proof

section
variable (f x y n : BitVec 4) (nn : BitVec 8) (nnn : BitVec 12)

theorem packXYN_toNat : (packXYN f x y n).toNat = f.toNat * 4096 + x.toNat * 256 + y.toNat * 16 + n.toNat := by
  have := f.isLt; have := x.isLt; have := y.isLt; have := n.isLt
  simp only [packXYN, BitVec.toNat_append]
  rw [← Nat.shiftLeft_add_eq_or_of_lt (by omega), ← Nat.shiftLeft_add_eq_or_of_lt (by omega),
    ← Nat.shiftLeft_add_eq_or_of_lt (by omega)]
  simp only [Nat.shiftLeft_eq]
  omega

theorem packXNN_toNat : (packXNN f x nn).toNat = f.toNat * 4096 + x.toNat * 256 + nn.toNat := by
  have := f.isLt; have := x.isLt; have := nn.isLt
  simp only [packXNN, BitVec.toNat_append]
  rw [← Nat.shiftLeft_add_eq_or_of_lt (by omega), ← Nat.shiftLeft_add_eq_or_of_lt (by omega)]
  simp only [Nat.shiftLeft_eq]
  omega

theorem packNNN_toNat : (packNNN f nnn).toNat = f.toNat * 4096 + nnn.toNat := by
  have := f.isLt; have := nnn.isLt
  simp only [packNNN, BitVec.toNat_append]
  rw [← Nat.shiftLeft_add_eq_or_of_lt (by omega)]
  simp only [Nat.shiftLeft_eq]

end

/-! ### The fields as numbers -/

section
variable (w : Word)

theorem fieldF_toNat : (fieldF w).toNat = w.toNat / 4096 := by
  have := w.isLt
  simp only [fieldF, BitVec.extractLsb'_toNat, Nat.shiftRight_eq_div_pow]; omega

theorem fieldX_toNat : (fieldX w).toNat = w.toNat / 256 % 16 := by
  simp only [fieldX, BitVec.extractLsb'_toNat, Nat.shiftRight_eq_div_pow]

theorem fieldY_toNat : (fieldY w).toNat = w.toNat / 16 % 16 := by
  simp only [fieldY, BitVec.extractLsb'_toNat, Nat.shiftRight_eq_div_pow]

theorem fieldN_toNat : (fieldN w).toNat = w.toNat % 16 := by
  simp only [fieldN, BitVec.extractLsb'_toNat, Nat.shiftRight_eq_div_pow]; omega

theorem fieldNN_toNat : (fieldNN w).toNat = w.toNat % 256 := by
  simp only [fieldNN, BitVec.extractLsb'_toNat, Nat.shiftRight_eq_div_pow]; omega

theorem fieldNNN_toNat : (fieldNNN w).toNat = w.toNat % 4096 := by
  simp only [fieldNNN, BitVec.extractLsb'_toNat, Nat.shiftRight_eq_div_pow]; omega

end

/-! ### The fields of a packed word -/

section
variable (f x y n : BitVec 4) (nn : BitVec 8) (nnn : BitVec 12)

@[simp] theorem fieldF_packXYN : fieldF (packXYN f x y n) = f := by
  have := f.isLt; have := x.isLt; have := y.isLt; have := n.isLt
  apply BitVec.eq_of_toNat_eq; rw [fieldF_toNat, packXYN_toNat]; omega

@[simp] theorem fieldX_packXYN : fieldX (packXYN f x y n) = x := by
  have := f.isLt; have := x.isLt; have := y.isLt; have := n.isLt
  apply BitVec.eq_of_toNat_eq; rw [fieldX_toNat, packXYN_toNat]; omega

@[simp] theorem fieldY_packXYN : fieldY (packXYN f x y n) = y := by
  have := f.isLt; have := x.isLt; have := y.isLt; have := n.isLt
  apply BitVec.eq_of_toNat_eq; rw [fieldY_toNat, packXYN_toNat]; omega

@[simp] theorem fieldN_packXYN : fieldN (packXYN f x y n) = n := by
  have := f.isLt; have := x.isLt; have := y.isLt; have := n.isLt
  apply BitVec.eq_of_toNat_eq; rw [fieldN_toNat, packXYN_toNat]; omega

@[simp] theorem fieldF_packXNN : fieldF (packXNN f x nn) = f := by
  have := f.isLt; have := x.isLt; have := nn.isLt
  apply BitVec.eq_of_toNat_eq; rw [fieldF_toNat, packXNN_toNat]; omega

@[simp] theorem fieldX_packXNN : fieldX (packXNN f x nn) = x := by
  have := f.isLt; have := x.isLt; have := nn.isLt
  apply BitVec.eq_of_toNat_eq; rw [fieldX_toNat, packXNN_toNat]; omega

@[simp] theorem fieldNN_packXNN : fieldNN (packXNN f x nn) = nn := by
  have := f.isLt; have := x.isLt; have := nn.isLt
  apply BitVec.eq_of_toNat_eq; rw [fieldNN_toNat, packXNN_toNat]; omega

@[simp] theorem fieldF_packNNN : fieldF (packNNN f nnn) = f := by
  have := f.isLt; have := nnn.isLt
  apply BitVec.eq_of_toNat_eq; rw [fieldF_toNat, packNNN_toNat]; omega

@[simp] theorem fieldNNN_packNNN : fieldNNN (packNNN f nnn) = nnn := by
  have := f.isLt; have := nnn.isLt
  apply BitVec.eq_of_toNat_eq; rw [fieldNNN_toNat, packNNN_toNat]; omega

end

/-! ### A word from its own fields -/

section
variable (w : Word)

theorem packXYN_fields : packXYN (fieldF w) (fieldX w) (fieldY w) (fieldN w) = w := by
  have := w.isLt
  apply BitVec.eq_of_toNat_eq
  rw [packXYN_toNat, fieldF_toNat, fieldX_toNat, fieldY_toNat, fieldN_toNat]; omega

theorem packXNN_fields : packXNN (fieldF w) (fieldX w) (fieldNN w) = w := by
  have := w.isLt
  apply BitVec.eq_of_toNat_eq
  rw [packXNN_toNat, fieldF_toNat, fieldX_toNat, fieldNN_toNat]; omega

theorem packNNN_fields : packNNN (fieldF w) (fieldNNN w) = w := by
  have := w.isLt
  apply BitVec.eq_of_toNat_eq
  rw [packNNN_toNat, fieldF_toNat, fieldNNN_toNat]; omega

end

/-- The bytes of a word, joined big-endian, are the word (20_memory.md R51). -/
theorem joinBytes_split (w : Word) : joinBytes (w.extractLsb' 8 8) (w.extractLsb' 0 8) = w := by
  have := w.isLt
  apply BitVec.eq_of_toNat_eq
  simp only [joinBytes, BitVec.toNat_append, BitVec.extractLsb'_toNat]
  rw [← Nat.shiftLeft_add_eq_or_of_lt (by omega)]
  simp only [Nat.shiftLeft_eq, Nat.shiftRight_eq_div_pow]
  omega

/-- The word as a number (R51): the byte at the lower address counts 256. -/
theorem joinBytes_toNat (hi lo : Byte) : (joinBytes hi lo).toNat = hi.toNat * 256 + lo.toNat := by
  have := hi.isLt; have := lo.isLt
  simp only [joinBytes, BitVec.toNat_append]
  rw [← Nat.shiftLeft_add_eq_or_of_lt (by omega)]
  simp only [Nat.shiftLeft_eq]

end Sys2Proof
end

