-- ==== Sys2Proof/Laws/State.lean ====
section
/-! SUPPORT. One lemma for each field of the state under each update, and what each register reads as. -/

namespace Sys2Proof.Machine

variable (s : State)

/-! ### `setReg` -/

@[simp] theorem State.setReg_i (x : Reg) (b : Byte) : (s.setReg x b).i = s.i := rfl
@[simp] theorem State.setReg_pc (x : Reg) (b : Byte) : (s.setReg x b).pc = s.pc := rfl
@[simp] theorem State.setReg_sp (x : Reg) (b : Byte) : (s.setReg x b).sp = s.sp := rfl
@[simp] theorem State.setReg_stack (x : Reg) (b : Byte) : (s.setReg x b).stack = s.stack := rfl
@[simp] theorem State.setReg_dt (x : Reg) (b : Byte) : (s.setReg x b).dt = s.dt := rfl
@[simp] theorem State.setReg_st (x : Reg) (b : Byte) : (s.setReg x b).st = s.st := rfl
@[simp] theorem State.setReg_status (x : Reg) (b : Byte) : (s.setReg x b).status = s.status := rfl
@[simp] theorem State.setReg_mem (x : Reg) (b : Byte) : (s.setReg x b).mem = s.mem := rfl
@[simp] theorem State.setReg_fb (x : Reg) (b : Byte) : (s.setReg x b).fb = s.fb := rfl
@[simp] theorem State.setReg_keys (x : Reg) (b : Byte) : (s.setReg x b).keys = s.keys := rfl
@[simp] theorem State.setReg_shiftSrc (x : Reg) (b : Byte) : (s.setReg x b).shiftSrc = s.shiftSrc := rfl
@[simp] theorem State.setReg_draws (x : Reg) (b : Byte) : (s.setReg x b).draws = s.draws := rfl

/-! ### `setI` -/

@[simp] theorem State.setI_v (a : Word) : (s.setI a).v = s.v := rfl
@[simp] theorem State.setI_i (a : Word) : (s.setI a).i = a := rfl
@[simp] theorem State.setI_pc (a : Word) : (s.setI a).pc = s.pc := rfl
@[simp] theorem State.setI_sp (a : Word) : (s.setI a).sp = s.sp := rfl
@[simp] theorem State.setI_stack (a : Word) : (s.setI a).stack = s.stack := rfl
@[simp] theorem State.setI_dt (a : Word) : (s.setI a).dt = s.dt := rfl
@[simp] theorem State.setI_st (a : Word) : (s.setI a).st = s.st := rfl
@[simp] theorem State.setI_status (a : Word) : (s.setI a).status = s.status := rfl
@[simp] theorem State.setI_mem (a : Word) : (s.setI a).mem = s.mem := rfl
@[simp] theorem State.setI_fb (a : Word) : (s.setI a).fb = s.fb := rfl
@[simp] theorem State.setI_keys (a : Word) : (s.setI a).keys = s.keys := rfl
@[simp] theorem State.setI_shiftSrc (a : Word) : (s.setI a).shiftSrc = s.shiftSrc := rfl
@[simp] theorem State.setI_draws (a : Word) : (s.setI a).draws = s.draws := rfl
@[simp] theorem State.setI_reg (a : Word) (r : Reg) : (s.setI a).reg r = s.reg r := rfl

/-! ### `setPc` -/

@[simp] theorem State.setPc_v (a : Word) : (s.setPc a).v = s.v := rfl
@[simp] theorem State.setPc_i (a : Word) : (s.setPc a).i = s.i := rfl
@[simp] theorem State.setPc_pc (a : Word) : (s.setPc a).pc = a := rfl
@[simp] theorem State.setPc_sp (a : Word) : (s.setPc a).sp = s.sp := rfl
@[simp] theorem State.setPc_stack (a : Word) : (s.setPc a).stack = s.stack := rfl
@[simp] theorem State.setPc_dt (a : Word) : (s.setPc a).dt = s.dt := rfl
@[simp] theorem State.setPc_st (a : Word) : (s.setPc a).st = s.st := rfl
@[simp] theorem State.setPc_status (a : Word) : (s.setPc a).status = s.status := rfl
@[simp] theorem State.setPc_mem (a : Word) : (s.setPc a).mem = s.mem := rfl
@[simp] theorem State.setPc_fb (a : Word) : (s.setPc a).fb = s.fb := rfl
@[simp] theorem State.setPc_keys (a : Word) : (s.setPc a).keys = s.keys := rfl
@[simp] theorem State.setPc_shiftSrc (a : Word) : (s.setPc a).shiftSrc = s.shiftSrc := rfl
@[simp] theorem State.setPc_draws (a : Word) : (s.setPc a).draws = s.draws := rfl
@[simp] theorem State.setPc_reg (a : Word) (r : Reg) : (s.setPc a).reg r = s.reg r := rfl

/-! ### `setDt` -/

@[simp] theorem State.setDt_v (b : Byte) : (s.setDt b).v = s.v := rfl
@[simp] theorem State.setDt_i (b : Byte) : (s.setDt b).i = s.i := rfl
@[simp] theorem State.setDt_pc (b : Byte) : (s.setDt b).pc = s.pc := rfl
@[simp] theorem State.setDt_sp (b : Byte) : (s.setDt b).sp = s.sp := rfl
@[simp] theorem State.setDt_stack (b : Byte) : (s.setDt b).stack = s.stack := rfl
@[simp] theorem State.setDt_dt (b : Byte) : (s.setDt b).dt = b := rfl
@[simp] theorem State.setDt_st (b : Byte) : (s.setDt b).st = s.st := rfl
@[simp] theorem State.setDt_status (b : Byte) : (s.setDt b).status = s.status := rfl
@[simp] theorem State.setDt_mem (b : Byte) : (s.setDt b).mem = s.mem := rfl
@[simp] theorem State.setDt_fb (b : Byte) : (s.setDt b).fb = s.fb := rfl
@[simp] theorem State.setDt_keys (b : Byte) : (s.setDt b).keys = s.keys := rfl
@[simp] theorem State.setDt_shiftSrc (b : Byte) : (s.setDt b).shiftSrc = s.shiftSrc := rfl
@[simp] theorem State.setDt_draws (b : Byte) : (s.setDt b).draws = s.draws := rfl
@[simp] theorem State.setDt_reg (b : Byte) (r : Reg) : (s.setDt b).reg r = s.reg r := rfl

/-! ### `setSt` -/

@[simp] theorem State.setSt_v (b : Byte) : (s.setSt b).v = s.v := rfl
@[simp] theorem State.setSt_i (b : Byte) : (s.setSt b).i = s.i := rfl
@[simp] theorem State.setSt_pc (b : Byte) : (s.setSt b).pc = s.pc := rfl
@[simp] theorem State.setSt_sp (b : Byte) : (s.setSt b).sp = s.sp := rfl
@[simp] theorem State.setSt_stack (b : Byte) : (s.setSt b).stack = s.stack := rfl
@[simp] theorem State.setSt_dt (b : Byte) : (s.setSt b).dt = s.dt := rfl
@[simp] theorem State.setSt_st (b : Byte) : (s.setSt b).st = b := rfl
@[simp] theorem State.setSt_status (b : Byte) : (s.setSt b).status = s.status := rfl
@[simp] theorem State.setSt_mem (b : Byte) : (s.setSt b).mem = s.mem := rfl
@[simp] theorem State.setSt_fb (b : Byte) : (s.setSt b).fb = s.fb := rfl
@[simp] theorem State.setSt_keys (b : Byte) : (s.setSt b).keys = s.keys := rfl
@[simp] theorem State.setSt_shiftSrc (b : Byte) : (s.setSt b).shiftSrc = s.shiftSrc := rfl
@[simp] theorem State.setSt_draws (b : Byte) : (s.setSt b).draws = s.draws := rfl
@[simp] theorem State.setSt_reg (b : Byte) (r : Reg) : (s.setSt b).reg r = s.reg r := rfl

/-! ### `setStatus` -/

@[simp] theorem State.setStatus_v (c : Status) : (s.setStatus c).v = s.v := rfl
@[simp] theorem State.setStatus_i (c : Status) : (s.setStatus c).i = s.i := rfl
@[simp] theorem State.setStatus_pc (c : Status) : (s.setStatus c).pc = s.pc := rfl
@[simp] theorem State.setStatus_sp (c : Status) : (s.setStatus c).sp = s.sp := rfl
@[simp] theorem State.setStatus_stack (c : Status) : (s.setStatus c).stack = s.stack := rfl
@[simp] theorem State.setStatus_dt (c : Status) : (s.setStatus c).dt = s.dt := rfl
@[simp] theorem State.setStatus_st (c : Status) : (s.setStatus c).st = s.st := rfl
@[simp] theorem State.setStatus_status (c : Status) : (s.setStatus c).status = c := rfl
@[simp] theorem State.setStatus_mem (c : Status) : (s.setStatus c).mem = s.mem := rfl
@[simp] theorem State.setStatus_fb (c : Status) : (s.setStatus c).fb = s.fb := rfl
@[simp] theorem State.setStatus_keys (c : Status) : (s.setStatus c).keys = s.keys := rfl
@[simp] theorem State.setStatus_shiftSrc (c : Status) : (s.setStatus c).shiftSrc = s.shiftSrc := rfl
@[simp] theorem State.setStatus_draws (c : Status) : (s.setStatus c).draws = s.draws := rfl
@[simp] theorem State.setStatus_reg (c : Status) (r : Reg) : (s.setStatus c).reg r = s.reg r := rfl

/-! ### `setMem` -/

@[simp] theorem State.setMem_v (m : Memory) : (s.setMem m).v = s.v := rfl
@[simp] theorem State.setMem_i (m : Memory) : (s.setMem m).i = s.i := rfl
@[simp] theorem State.setMem_pc (m : Memory) : (s.setMem m).pc = s.pc := rfl
@[simp] theorem State.setMem_sp (m : Memory) : (s.setMem m).sp = s.sp := rfl
@[simp] theorem State.setMem_stack (m : Memory) : (s.setMem m).stack = s.stack := rfl
@[simp] theorem State.setMem_dt (m : Memory) : (s.setMem m).dt = s.dt := rfl
@[simp] theorem State.setMem_st (m : Memory) : (s.setMem m).st = s.st := rfl
@[simp] theorem State.setMem_status (m : Memory) : (s.setMem m).status = s.status := rfl
@[simp] theorem State.setMem_mem (m : Memory) : (s.setMem m).mem = m := rfl
@[simp] theorem State.setMem_fb (m : Memory) : (s.setMem m).fb = s.fb := rfl
@[simp] theorem State.setMem_keys (m : Memory) : (s.setMem m).keys = s.keys := rfl
@[simp] theorem State.setMem_shiftSrc (m : Memory) : (s.setMem m).shiftSrc = s.shiftSrc := rfl
@[simp] theorem State.setMem_draws (m : Memory) : (s.setMem m).draws = s.draws := rfl
@[simp] theorem State.setMem_reg (m : Memory) (r : Reg) : (s.setMem m).reg r = s.reg r := rfl

/-! ### `setFb` -/

@[simp] theorem State.setFb_v (f : Framebuffer) : (s.setFb f).v = s.v := rfl
@[simp] theorem State.setFb_i (f : Framebuffer) : (s.setFb f).i = s.i := rfl
@[simp] theorem State.setFb_pc (f : Framebuffer) : (s.setFb f).pc = s.pc := rfl
@[simp] theorem State.setFb_sp (f : Framebuffer) : (s.setFb f).sp = s.sp := rfl
@[simp] theorem State.setFb_stack (f : Framebuffer) : (s.setFb f).stack = s.stack := rfl
@[simp] theorem State.setFb_dt (f : Framebuffer) : (s.setFb f).dt = s.dt := rfl
@[simp] theorem State.setFb_st (f : Framebuffer) : (s.setFb f).st = s.st := rfl
@[simp] theorem State.setFb_status (f : Framebuffer) : (s.setFb f).status = s.status := rfl
@[simp] theorem State.setFb_mem (f : Framebuffer) : (s.setFb f).mem = s.mem := rfl
@[simp] theorem State.setFb_fb (f : Framebuffer) : (s.setFb f).fb = f := rfl
@[simp] theorem State.setFb_keys (f : Framebuffer) : (s.setFb f).keys = s.keys := rfl
@[simp] theorem State.setFb_shiftSrc (f : Framebuffer) : (s.setFb f).shiftSrc = s.shiftSrc := rfl
@[simp] theorem State.setFb_draws (f : Framebuffer) : (s.setFb f).draws = s.draws := rfl
@[simp] theorem State.setFb_reg (f : Framebuffer) (r : Reg) : (s.setFb f).reg r = s.reg r := rfl

/-! ### `countDraw` -/

@[simp] theorem State.countDraw_v : s.countDraw.v = s.v := rfl
@[simp] theorem State.countDraw_i : s.countDraw.i = s.i := rfl
@[simp] theorem State.countDraw_pc : s.countDraw.pc = s.pc := rfl
@[simp] theorem State.countDraw_sp : s.countDraw.sp = s.sp := rfl
@[simp] theorem State.countDraw_stack : s.countDraw.stack = s.stack := rfl
@[simp] theorem State.countDraw_dt : s.countDraw.dt = s.dt := rfl
@[simp] theorem State.countDraw_st : s.countDraw.st = s.st := rfl
@[simp] theorem State.countDraw_status : s.countDraw.status = s.status := rfl
@[simp] theorem State.countDraw_mem : s.countDraw.mem = s.mem := rfl
@[simp] theorem State.countDraw_fb : s.countDraw.fb = s.fb := rfl
@[simp] theorem State.countDraw_keys : s.countDraw.keys = s.keys := rfl
@[simp] theorem State.countDraw_shiftSrc : s.countDraw.shiftSrc = s.shiftSrc := rfl
@[simp] theorem State.countDraw_draws : s.countDraw.draws = s.draws + 1 := rfl
@[simp] theorem State.countDraw_reg (r : Reg) : s.countDraw.reg r = s.reg r := rfl

/-! ### `goNext` -/

@[simp] theorem State.goNext_v : s.goNext.v = s.v := rfl
@[simp] theorem State.goNext_i : s.goNext.i = s.i := rfl
@[simp] theorem State.goNext_pc : s.goNext.pc = s.nextPc := rfl
@[simp] theorem State.goNext_sp : s.goNext.sp = s.sp := rfl
@[simp] theorem State.goNext_stack : s.goNext.stack = s.stack := rfl
@[simp] theorem State.goNext_dt : s.goNext.dt = s.dt := rfl
@[simp] theorem State.goNext_st : s.goNext.st = s.st := rfl
@[simp] theorem State.goNext_status : s.goNext.status = s.status := rfl
@[simp] theorem State.goNext_mem : s.goNext.mem = s.mem := rfl
@[simp] theorem State.goNext_fb : s.goNext.fb = s.fb := rfl
@[simp] theorem State.goNext_keys : s.goNext.keys = s.keys := rfl
@[simp] theorem State.goNext_shiftSrc : s.goNext.shiftSrc = s.shiftSrc := rfl
@[simp] theorem State.goNext_draws : s.goNext.draws = s.draws := rfl
@[simp] theorem State.goNext_reg (r : Reg) : s.goNext.reg r = s.reg r := rfl

/-! ### `keyWrite` -/

@[simp] theorem State.keyWrite_v (k : Fin 16) (b : Bool) : (s.keyWrite k b).v = s.v := rfl
@[simp] theorem State.keyWrite_i (k : Fin 16) (b : Bool) : (s.keyWrite k b).i = s.i := rfl
@[simp] theorem State.keyWrite_pc (k : Fin 16) (b : Bool) : (s.keyWrite k b).pc = s.pc := rfl
@[simp] theorem State.keyWrite_sp (k : Fin 16) (b : Bool) : (s.keyWrite k b).sp = s.sp := rfl
@[simp] theorem State.keyWrite_stack (k : Fin 16) (b : Bool) : (s.keyWrite k b).stack = s.stack := rfl
@[simp] theorem State.keyWrite_dt (k : Fin 16) (b : Bool) : (s.keyWrite k b).dt = s.dt := rfl
@[simp] theorem State.keyWrite_st (k : Fin 16) (b : Bool) : (s.keyWrite k b).st = s.st := rfl
@[simp] theorem State.keyWrite_status (k : Fin 16) (b : Bool) : (s.keyWrite k b).status = s.status := rfl
@[simp] theorem State.keyWrite_mem (k : Fin 16) (b : Bool) : (s.keyWrite k b).mem = s.mem := rfl
@[simp] theorem State.keyWrite_fb (k : Fin 16) (b : Bool) : (s.keyWrite k b).fb = s.fb := rfl
@[simp] theorem State.keyWrite_shiftSrc (k : Fin 16) (b : Bool) : (s.keyWrite k b).shiftSrc = s.shiftSrc := rfl
@[simp] theorem State.keyWrite_draws (k : Fin 16) (b : Bool) : (s.keyWrite k b).draws = s.draws := rfl
@[simp] theorem State.keyWrite_reg (k : Fin 16) (b : Bool) (r : Reg) : (s.keyWrite k b).reg r = s.reg r := rfl

/-! ### Registers and PC -/

@[simp] theorem State.reg_setReg_same (x : Reg) (b : Byte) : (s.setReg x b).reg x = b := by
  simp [State.reg, State.setReg]

theorem State.reg_setReg (x r : Reg) (b : Byte) : (s.setReg x b).reg r = if x = r then b else s.reg r := by
  simp only [State.reg, State.setReg, Vector.getElem_set, BitVec.toNat_inj]

@[simp] theorem State.reg_setReg_ne {x r : Reg} (h : r ≠ x) (b : Byte) : (s.setReg x b).reg r = s.reg r := by
  rw [State.reg_setReg, if_neg h.symm]

@[simp] theorem State.nextPc_eq : s.nextPc = s.pc + 2 := rfl

@[simp] theorem State.skipPc_eq : s.skipPc = s.pc + 4 := rfl

/-- A conditional skip writes PC only (R104). -/
theorem State.skipIf_eq (c : Bool) : s.skipIf c = s.setPc (if c then s.pc + 4 else s.pc + 2) := by
  cases c <;> rfl

/-- Two states with equal fields, the registers read one by one, are equal. -/
theorem State.ext_reg {s t : State} (hr : ∀ r, t.reg r = s.reg r) (hi : t.i = s.i) (hpc : t.pc = s.pc)
    (hsp : t.sp = s.sp) (hstk : t.stack = s.stack) (hdt : t.dt = s.dt) (hst : t.st = s.st)
    (hstat : t.status = s.status) (hmem : t.mem = s.mem) (hfb : t.fb = s.fb) (hk : t.keys = s.keys)
    (hc : t.shiftSrc = s.shiftSrc) (hd : t.draws = s.draws) : t = s := by
  have hv : t.v = s.v := by
    apply Vector.ext
    intro k hk'
    have := hr (BitVec.ofNat 4 k)
    simpa [State.reg, Nat.mod_eq_of_lt hk'] using this
  cases s; cases t; simp_all

end Sys2Proof.Machine
end

