-- ==== Sys2Proof/Laws/Memory.lean ====
section
/-! SUPPORT. The laws of memory: a read after a write, the canonical form, and what the whole-range accesses do. -/

namespace Sys2Proof.Machine.Memory

@[simp] theorem get_nil (a : Nat) : Memory.get [] a = unlisted a := rfl

theorem get_cons (k : Nat) (c : Byte) (m : Memory) (a : Nat) :
    Memory.get ((k, c) :: m) a = if a = k then c else Memory.get m a := rfl

/-! ### Read after write -/

theorem get_list (m : Memory) (a k : Nat) (b : Byte) :
    Memory.get (list a b m) k = if k = a then b else Memory.get m k := by
  induction m with
  | nil => simp [list, get_cons]
  | cons p m ih =>
    obtain ⟨q, c⟩ := p
    simp only [list]
    split
    · simp [get_cons]
    · split
      · subst a
        by_cases hk : k = q <;> simp [get_cons, hk]
      · by_cases hk : k = q
        · subst hk
          simp [get_cons, show ¬ k = a by omega]
        · simp [get_cons, hk, ih]

theorem get_unlist (m : Memory) (a k : Nat) :
    Memory.get (unlist a m) k = if k = a then unlisted a else Memory.get m k := by
  induction m with
  | nil => by_cases hk : k = a <;> simp [unlist, hk]
  | cons p m ih =>
    obtain ⟨q, c⟩ := p
    simp only [unlist, List.filter_cons] at ih ⊢
    by_cases hq : q = a
    · subst hq
      by_cases hk : k = q <;> simp_all [get_cons]
    · by_cases hk : k = q
      · subst hk
        simp [get_cons, hq]
      · simp [get_cons, hq, hk, ih]

/-- `MEM[a] <- b` then a read: `b` at `a`, everywhere else what was there (R52, R56). -/
theorem get_set (m : Memory) (a k : Nat) (b : Byte) :
    (Memory.set m a b).get k = if k = a then b else m.get k := by
  unfold set
  split
  · next h => rw [get_unlist, h]
  · rw [get_list]

@[simp] theorem get_set_same (m : Memory) (a : Nat) (b : Byte) : (Memory.set m a b).get a = b := by
  simp [get_set]

@[simp] theorem get_set_ne (m : Memory) {a k : Nat} (h : k ≠ a) (b : Byte) : (Memory.set m a b).get k = m.get k := by
  simp [get_set, h]

/-! ### The canonical form is kept -/

theorem wfFrom_nil (lo : Nat) : wfFrom lo [] = true := rfl

theorem wfFrom_cons (lo k : Nat) (c : Byte) (m : Memory) :
    wfFrom lo ((k, c) :: m) = true ↔
      lo ≤ k ∧ k < 4096 ∧ c ≠ unlisted k ∧ wfFrom (k + 1) m = true := by
  simp only [wfFrom, Bool.and_eq_true, decide_eq_true_eq, and_assoc]
  rfl

theorem wfFrom_mono {lo lo' : Nat} (h : lo' ≤ lo) (m : Memory) (hm : wfFrom lo m = true) : wfFrom lo' m = true := by
  cases m with
  | nil => rfl
  | cons p m => rw [wfFrom_cons] at hm ⊢; exact ⟨by omega, hm.2⟩

theorem wfFrom_list {lo a : Nat} {b : Byte} (m : Memory) (hm : wfFrom lo m = true) (hlo : lo ≤ a) (ha : a < 4096)
    (hb : b ≠ unlisted a) : wfFrom lo (list a b m) = true := by
  induction m generalizing lo with
  | nil => rw [list, wfFrom_cons]; exact ⟨hlo, ha, hb, rfl⟩
  | cons p m ih =>
    obtain ⟨q, c⟩ := p
    rw [wfFrom_cons] at hm
    simp only [list]
    split
    · next hq => rw [wfFrom_cons, wfFrom_cons]; exact ⟨hlo, ha, hb, by omega, hm.2⟩
    · split
      · next hq => rw [wfFrom_cons]; exact ⟨hlo, ha, hb, hq ▸ hm.2.2.2⟩
      · rw [wfFrom_cons]; exact ⟨hm.1, hm.2.1, hm.2.2.1, ih hm.2.2.2 (by omega)⟩

theorem wfFrom_unlist {lo : Nat} (a : Nat) (m : Memory) (hm : wfFrom lo m = true) : wfFrom lo (unlist a m) = true := by
  induction m generalizing lo with
  | nil => rfl
  | cons p m ih =>
    obtain ⟨q, c⟩ := p
    rw [wfFrom_cons] at hm
    have hrec := ih hm.2.2.2
    simp only [unlist, List.filter_cons] at hrec ⊢
    split
    · rw [wfFrom_cons]; exact ⟨hm.1, hm.2.1, hm.2.2.1, hrec⟩
    · exact wfFrom_mono (by omega) _ hrec

/-- Writing a byte inside MEM keeps the canonical form. -/
theorem wf_set {m : Memory} {a : Nat} (hm : m.wf = true) (ha : a < 4096) (b : Byte) : (Memory.set m a b).wf = true := by
  unfold set
  split
  · exact wfFrom_unlist a m hm
  · next h => exact wfFrom_list m hm (Nat.zero_le a) ha h

theorem wf_setBytes {m : Memory} {a : Nat} (bs : List Byte) (hm : m.wf = true) (ha : bs = [] ∨ a + bs.length ≤ 4096) :
    (m.setBytes a bs).wf = true := by
  induction bs generalizing m a with
  | nil => exact hm
  | cons b bs ih =>
    simp only [List.length_cons, reduceCtorEq, false_or] at ha
    refine ih (wf_set hm (by omega) b) ?_
    cases bs with
    | nil => exact .inl rfl
    | cons c cs => right; simp only [List.length_cons] at ha ⊢; omega

theorem wf_nil : Memory.wf [] = true := rfl

/-! ### Runs of bytes -/

theorem length_getBytes (m : Memory) (a n : Nat) : (m.getBytes a n).length = n := by
  induction n generalizing a with
  | zero => rfl
  | succ n ih => simp [getBytes, ih]

theorem getElem_getBytes (m : Memory) (a n k : Nat) (h : k < (m.getBytes a n).length) :
    (m.getBytes a n)[k] = m.get (a + k) := by
  induction n generalizing a k with
  | zero => simp [getBytes] at h
  | succ n ih =>
    cases k with
    | zero => rfl
    | succ k =>
      simp only [getBytes, List.getElem_cons_succ]
      rw [ih (a + 1) k (by simpa [getBytes] using h)]
      congr 1; omega

/-- A run of bytes written and then read: its own bytes inside the run, everything else unchanged. -/
theorem get_setBytes (m : Memory) (a k : Nat) (bs : List Byte) :
    (m.setBytes a bs).get k = if h : a ≤ k ∧ k < a + bs.length then bs[k - a]'(by omega) else m.get k := by
  induction bs generalizing m a with
  | nil => simp [setBytes, show ¬ (a ≤ k ∧ k < a) by omega]
  | cons b bs ih =>
    rw [setBytes, ih]
    by_cases hk : k = a
    · subst hk
      simp
    · by_cases h : a + 1 ≤ k ∧ k < a + 1 + bs.length
      · have h' : a ≤ k ∧ k < a + (b :: bs).length := by simp only [List.length_cons]; omega
        rw [dif_pos h, dif_pos h']
        obtain ⟨j, rfl⟩ : ∃ j, k = a + 1 + j := ⟨k - (a + 1), by omega⟩
        simp [show a + 1 + j - a = j + 1 by omega]
      · have h' : ¬ (a ≤ k ∧ k < a + (b :: bs).length) := by simp only [List.length_cons]; omega
        rw [dif_neg h, dif_neg h', get_set_ne _ hk]

/-! ### The whole-range accesses (R50 to R53, R173) -/

theorem read_eq_ite (m : Memory) (a n : Nat) :
    m.read a n = if n = 0 ∨ a + n ≤ 4096 then some (m.getBytes a n) else none := rfl

theorem write_eq_ite (m : Memory) (a : Nat) (bs : List Byte) :
    m.write a bs = if bs.length = 0 ∨ a + bs.length ≤ 4096 then some (m.setBytes a bs) else none := rfl

/-- `MemRead` answers exactly when the whole range lies in MEM, with the bytes of the range. -/
theorem read_eq_some {m : Memory} {a n : Nat} {bs : List Byte} :
    m.read a n = some bs ↔ (n = 0 ∨ a + n ≤ 4096) ∧ bs = m.getBytes a n := by
  rw [read_eq_ite]
  split <;> simp_all [eq_comm]

theorem read_eq_none {m : Memory} {a n : Nat} : m.read a n = none ↔ n ≠ 0 ∧ 4096 < a + n := by
  rw [read_eq_ite]
  split <;> simp <;> omega

/-- `MemWrite` answers exactly when the whole range lies in MEM, with the run of bytes written. -/
theorem write_eq_some {m m' : Memory} {a : Nat} {bs : List Byte} :
    m.write a bs = some m' ↔ (bs.length = 0 ∨ a + bs.length ≤ 4096) ∧ m' = m.setBytes a bs := by
  rw [write_eq_ite]
  split <;> simp_all [eq_comm]

theorem write_eq_none {m : Memory} {a : Nat} {bs : List Byte} :
    m.write a bs = none ↔ bs.length ≠ 0 ∧ 4096 < a + bs.length := by
  rw [write_eq_ite]
  split
  · simp only [reduceCtorEq, false_iff]; omega
  · simp only [true_iff]; omega

/-- Every write that answers keeps the canonical form. -/
theorem wf_write {m m' : Memory} {a : Nat} {bs : List Byte} (hm : m.wf = true) (h : m.write a bs = some m') :
    m'.wf = true := by
  obtain ⟨hr, rfl⟩ := write_eq_some.1 h
  refine wf_setBytes bs hm (hr.imp_left fun h0 => ?_)
  exact List.length_eq_zero_iff.1 h0

end Sys2Proof.Machine.Memory

namespace Sys2Proof.Machine

/-- Memory right after reset is in canonical form. -/
theorem reset_mem_wf : State.reset.mem.wf = true := rfl

end Sys2Proof.Machine
end

