-- ==== Sys2Proof/Laws/Ops.lean ====
section
/-! SUPPORT. What each shared operation over registers, call stack, keys and outcomes can do, once. -/

namespace Sys2Proof.Machine

variable {s t : State}

/-! ### Raising an error (R207) -/

theorem State.raise_eq (s : State) (c : Cause) : s.raise c = .next (s.setStatus (.halted c)) := rfl

@[simp] theorem State.raise_eq_next {c : Cause} : s.raise c = .next t ↔ t = s.setStatus (.halted c) := by
  simp [State.raise, eq_comm]

/-! ### The call stack (R28, R29) -/

/-- A push answers exactly when SP is below 16, and then stores at SP and increments it. -/
theorem State.push_eq_some {a : Word} :
    s.push a = some t ↔ ∃ h : s.sp.val < 16,
      t = { s with stack := s.stack.set s.sp.val a h, sp := ⟨s.sp.val + 1, by omega⟩ } := by
  unfold State.push
  split <;> simp_all [eq_comm]

theorem State.push_eq_none {a : Word} : s.push a = none ↔ s.sp.val = 16 := by
  unfold State.push
  split <;> simp <;> omega

/-- A pop answers exactly when SP is above 0, with the entry below SP, and then only decrements SP. -/
theorem State.pop_eq_some {a : Word} :
    s.pop = some (a, t) ↔ ∃ h : 0 < s.sp.val,
      a = s.stack[s.sp.val - 1]'(by omega) ∧ t = { s with sp := ⟨s.sp.val - 1, by omega⟩ } := by
  unfold State.pop
  split <;> simp_all [eq_comm]

theorem State.pop_eq_none : s.pop = none ↔ s.sp.val = 0 := by
  unfold State.pop
  split <;> simp <;> omega

/-! ### Runs of registers (R175, R176) -/

theorem State.length_regsFrom (s : State) (k n : Nat) : (s.regsFrom k n).length = n := by
  induction n generalizing k with
  | zero => rfl
  | succ n ih => simp [State.regsFrom, ih]

theorem State.getElem_regsFrom (s : State) (k n j : Nat) (h : j < (s.regsFrom k n).length) :
    (s.regsFrom k n)[j] = s.reg (BitVec.ofNat 4 (k + j)) := by
  induction n generalizing k j with
  | zero => simp [State.regsFrom] at h
  | succ n ih =>
    cases j with
    | zero => rfl
    | succ j =>
      simp only [State.regsFrom, List.getElem_cons_succ]
      rw [ih (k + 1) j (by simpa [State.regsFrom] using h)]
      congr 2; omega

/-- Loading a run of registers: register `k + j` gets the `j`-th byte, the others keep their values. -/
theorem State.reg_setRegsFrom (s : State) (k : Nat) (bs : List Byte) (r : Reg) (hk : k + bs.length ≤ 16) :
    (s.setRegsFrom k bs).reg r =
      if h : k ≤ r.toNat ∧ r.toNat < k + bs.length then bs[r.toNat - k]'(by omega) else s.reg r := by
  induction bs generalizing s k with
  | nil => simp [State.setRegsFrom, show ¬ (k ≤ r.toNat ∧ r.toNat < k) by omega]
  | cons b bs ih =>
    simp only [List.length_cons] at hk
    rw [State.setRegsFrom, ih _ _ (by omega)]
    by_cases hr : r.toNat = k
    · have hx : BitVec.ofNat 4 k = r := by
        apply BitVec.eq_of_toNat_eq
        rw [BitVec.toNat_ofNat, hr, Nat.mod_eq_of_lt (by omega)]
      simp [hr, hx]
    · have hx : r ≠ BitVec.ofNat 4 k := fun h => hr (by
        rw [h, BitVec.toNat_ofNat, Nat.mod_eq_of_lt (by omega)])
      rw [State.reg_setReg_ne _ hx]
      by_cases h : k + 1 ≤ r.toNat ∧ r.toNat < k + 1 + bs.length
      · have h' : k ≤ r.toNat ∧ r.toNat < k + (b :: bs).length := by simp only [List.length_cons]; omega
        rw [dif_pos h, dif_pos h']
        have e : r.toNat - k = (r.toNat - (k + 1)) + 1 := by omega
        simp only [e, List.getElem_cons_succ]
      · have h' : ¬ (k ≤ r.toNat ∧ r.toNat < k + (b :: bs).length) := by simp only [List.length_cons]; omega
        rw [dif_neg h, dif_neg h']

/-- Loading registers writes nothing else. -/
theorem State.setRegsFrom_eq (s : State) (k : Nat) (bs : List Byte) :
    s.setRegsFrom k bs = { s with v := (s.setRegsFrom k bs).v } := by
  induction bs generalizing s k with
  | nil => rfl
  | cons b bs ih => rw [State.setRegsFrom, ih]; rfl

/-! ### Keys (R164) -/

theorem State.mem_pressedKeys {k : Nat} : k ∈ s.pressedKeys ↔ k < 16 ∧ s.key k = true := by
  simp [State.pressedKeys]

/-- `key_select` answers a member of the pressed set, whatever the free choice is. -/
theorem selectKey_mem (draw : Nat) {ks : List Nat} (h : ks ≠ []) : selectKey draw ks ∈ ks := by
  have hpos : 0 < ks.length := List.length_pos_iff.2 h
  have hlt : Config.keyChoice draw % ks.length < ks.length := Nat.mod_lt _ hpos
  simp [selectKey, List.getElem?_eq_getElem hlt]

/-- `FX0A` (R164): nothing with no key pressed; else a pressed key in VX, and at most one free value consumed. -/
theorem execWaitKey_cases {x : Reg} (h : execWaitKey x s = .next t) :
    (s.pressedKeys = [] ∧ t = s) ∨
    ∃ k ∈ s.pressedKeys, t = (s.setReg x (BitVec.ofNat 8 k)).goNext ∨
      t = ((s.setReg x (BitVec.ofNat 8 k)).countDraw).goNext := by
  unfold execWaitKey at h
  split at h
  · next hp => cases h; exact .inl ⟨hp, rfl⟩
  · next k hp => cases h; exact .inr ⟨k, by simp [hp], .inl rfl⟩
  · next k l ks hp =>
    cases h
    exact .inr ⟨selectKey s.draws (k :: l :: ks), by rw [hp]; exact selectKey_mem _ (by simp), .inr rfl⟩

/-! ### The common store of `FX33` and `FX55` (R173) -/

theorem State.storeAtI_eq (s : State) (bs : List Byte) :
    s.storeAtI bs =
      if bs.length = 0 ∨ s.i.toNat + bs.length ≤ 4096 then .next (s.setMem (s.mem.setBytes s.i.toNat bs)).goNext
      else s.raise .addressOutOfRange := by
  rw [State.storeAtI, Memory.write_eq_ite]
  by_cases h : bs.length = 0 ∨ s.i.toNat + bs.length ≤ 4096
  · rw [if_pos h, if_pos h]
  · rw [if_neg h, if_neg h]

/-! ### The end of an ALU instruction (R130, R22) -/

@[simp] theorem State.aluFlagged_flag (s : State) (x : Reg) (r : Byte) (c : Bool) :
    (s.aluFlagged x r c).reg VF = flagByte c := by
  simp [State.aluFlagged]

@[simp] theorem State.aluFlagged_result (s : State) {x : Reg} (h : x ≠ VF) (r : Byte) (c : Bool) :
    (s.aluFlagged x r c).reg x = r := by
  simp [State.aluFlagged, h]

theorem State.aluFlagged_other (s : State) {x y : Reg} (hx : y ≠ x) (hf : y ≠ VF) (r : Byte) (c : Bool) :
    (s.aluFlagged x r c).reg y = s.reg y := by
  simp [State.aluFlagged, hx, hf]

theorem flagByte_eq (c : Bool) : flagByte c = 0 ∨ flagByte c = 1 := by cases c <;> simp [flagByte]

end Sys2Proof.Machine
end

