-- ==== Sys2Proof/Laws/Draw.lean ====
section
/-! SUPPORT. What drawing a sprite does to the framebuffer, once (44_display.md R151, R152): the targets of one draw are
pairwise distinct, each is toggled once, and the flag says whether one of them was set before. -/

namespace Sys2Proof.Machine

/-! ### Pixels -/

theorem pixel_eq {fb : Framebuffer} {x y : Nat} (hy : y < 32) : pixel fb x y = fb[y].getLsbD x := by
  simp [pixel, hy]

@[simp] theorem pixel_clearFb (x y : Nat) : pixel clearFb x y = false := by
  by_cases hy : y < 32
  · simp [pixel_eq hy, clearFb]
  · simp [pixel, clearFb, hy]

/-- Toggling the pixel (x, y) changes that pixel and no other. -/
theorem pixel_togglePixel (fb : Framebuffer) {x y : Nat} (hx : x < 64) (hy : y < 32) (x' y' : Nat) :
    pixel (togglePixel fb x y) x' y' = (pixel fb x' y' ^^ decide ((x', y') = (x, y))) := by
  rw [togglePixel, dif_pos hy]
  by_cases hy' : y' < 32
  · rw [pixel_eq hy', pixel_eq hy', Vector.getElem_set]
    by_cases h : y = y'
    · subst h
      by_cases hxx : x = x'
      · subst hxx; simp [hx]
      · simp [BitVec.getLsbD_twoPow, hxx, Ne.symm hxx]
    · simp [h, Ne.symm h]
  · have : y' ≠ y := by omega
    simp [pixel, hy', this]

/-- Framebuffers with equal pixels are equal. -/
theorem fb_ext {f g : Framebuffer} (h : ∀ x y, x < 64 → y < 32 → pixel f x y = pixel g x y) : f = g := by
  apply Vector.ext
  intro y hy
  apply BitVec.eq_of_getLsbD_eq
  intro x hx
  have := h x y hx hy
  rwa [pixel_eq hy, pixel_eq hy] at this

/-! ### Drawing a list of pixels -/

theorem drawPixels_from (targets : List (Nat × Nat)) (fb : Framebuffer) (c : Bool)
    (hin : ∀ p ∈ targets, p.1 < 64 ∧ p.2 < 32) (hnd : targets.Nodup) :
    let r := targets.foldl (fun acc p => (togglePixel acc.1 p.1 p.2, acc.2 || pixel acc.1 p.1 p.2)) (fb, c)
    (∀ x y, pixel r.1 x y = (pixel fb x y ^^ decide ((x, y) ∈ targets))) ∧
    (r.2 = (c || targets.any fun p => pixel fb p.1 p.2)) := by
  induction targets generalizing fb c with
  | nil => simp
  | cons p ps ih =>
    obtain ⟨hp, hps⟩ := List.nodup_cons.1 hnd
    obtain ⟨hpx, hpy⟩ := hin p (by simp)
    obtain ⟨h1, h2⟩ := ih (togglePixel fb p.1 p.2) (c || pixel fb p.1 p.2)
      (fun q hq => hin q (by simp [hq])) hps
    simp only [List.foldl_cons]
    refine ⟨fun x y => ?_, ?_⟩
    · rw [h1, pixel_togglePixel fb hpx hpy]
      by_cases hxy : (x, y) = p
      · simp [hxy, hp]
      · simp [hxy]
    · rw [h2, List.any_cons, Bool.or_assoc]
      congr 2
      have key : ∀ q ∈ ps, pixel (togglePixel fb p.1 p.2) q.1 q.2 = pixel fb q.1 q.2 := by
        intro q hq
        have hne : ¬ q = p := fun e => hp (e ▸ hq)
        rw [pixel_togglePixel fb hpx hpy]
        simp [hne]
      rw [Bool.eq_iff_iff, List.any_eq_true, List.any_eq_true]
      exact ⟨fun ⟨q, hq, e⟩ => ⟨q, hq, key q hq ▸ e⟩, fun ⟨q, hq, e⟩ => ⟨q, hq, (key q hq).symm ▸ e⟩⟩

/-! ### The targets of a sprite (R151) -/

theorem mem_rowTargets {x0 y : Nat} {b : Byte} {p : Nat × Nat} :
    p ∈ rowTargets x0 y b ↔ ∃ col, col < 8 ∧ b.getLsbD (7 - col) = true ∧ p = ((x0 + col) % 64, y) := by
  simp only [rowTargets, List.mem_map, List.mem_filter, List.mem_range, and_assoc, @eq_comm _ _ p]

theorem nodup_rowTargets (x0 y : Nat) (b : Byte) : (rowTargets x0 y b).Nodup := by
  unfold rowTargets
  refine List.Nodup.map_on ?_ (List.Nodup.filter _ List.nodup_range)
  intro c hc d hd h
  simp only [List.mem_filter, List.mem_range] at hc hd
  simp only [Prod.mk.injEq, and_true] at h
  omega

/-- A pixel is a target of the sprite exactly when some row and column of it with a 1 bit land there. -/
theorem mem_spriteTargets {x0 y0 : Nat} {bs : List Byte} {p : Nat × Nat} :
    p ∈ spriteTargets x0 y0 bs ↔ ∃ row col, ∃ h : row < bs.length, col < 8 ∧ bs[row].getLsbD (7 - col) = true ∧
      p = ((x0 + col) % 64, (y0 + row) % 32) := by
  induction bs generalizing y0 with
  | nil => simp [spriteTargets]
  | cons b bs ih =>
    rw [spriteTargets, List.mem_append, mem_rowTargets, ih]
    constructor
    · rintro (⟨col, hc, hb, rfl⟩ | ⟨row, col, hr, hc, hb, rfl⟩)
      · exact ⟨0, col, by simp, hc, by simpa using hb, rfl⟩
      · exact ⟨row + 1, col, by simpa using hr, hc, by simpa using hb, by simp [Nat.add_assoc, Nat.add_comm 1 row]⟩
    · rintro ⟨row, col, hr, hc, hb, rfl⟩
      cases row with
      | zero => exact .inl ⟨col, hc, by simpa using hb, rfl⟩
      | succ row =>
        exact .inr ⟨row, col, by simpa using hr, hc, by simpa using hb, by simp [Nat.add_assoc, Nat.add_comm 1 row]⟩

theorem spriteTargets_inside {x0 y0 : Nat} {bs : List Byte} {p : Nat × Nat} (h : p ∈ spriteTargets x0 y0 bs) :
    p.1 < 64 ∧ p.2 < 32 := by
  obtain ⟨_, _, _, _, _, rfl⟩ := mem_spriteTargets.1 h
  exact ⟨Nat.mod_lt _ (by omega), Nat.mod_lt _ (by omega)⟩

/-- With at most 32 rows no pixel is drawn twice in one draw (R152). -/
theorem nodup_spriteTargets (x0 y0 : Nat) (bs : List Byte) (hlen : bs.length ≤ 32) : (spriteTargets x0 y0 bs).Nodup := by
  induction bs generalizing y0 with
  | nil => simp [spriteTargets]
  | cons b bs ih =>
    simp only [List.length_cons] at hlen
    rw [spriteTargets, List.nodup_append]
    refine ⟨nodup_rowTargets _ _ _, ih _ (by omega), ?_⟩
    intro p hp q hq e
    obtain ⟨_, _, _, rfl⟩ := mem_rowTargets.1 hp
    obtain ⟨row, _, hr, _, _, rfl⟩ := mem_spriteTargets.1 hq
    simp only [Prod.mk.injEq] at e
    omega

/-! ### A whole draw -/

/-- After a draw each pixel is XORed with whether the sprite has a 1 bit landing on it. -/
theorem pixel_drawSprite (fb : Framebuffer) (x0 y0 : Nat) (bs : List Byte) (hlen : bs.length ≤ 32) (x y : Nat) :
    pixel (drawPixels fb (spriteTargets x0 y0 bs)).1 x y =
      (pixel fb x y ^^ decide ((x, y) ∈ spriteTargets x0 y0 bs)) :=
  (drawPixels_from _ fb false (fun _ h => spriteTargets_inside h) (nodup_spriteTargets x0 y0 bs hlen)).1 x y

/-- The collision flag: some 1 bit of the sprite lands on a pixel that was set. -/
theorem collision_drawSprite (fb : Framebuffer) (x0 y0 : Nat) (bs : List Byte) (hlen : bs.length ≤ 32) :
    (drawPixels fb (spriteTargets x0 y0 bs)).2 = true ↔
      ∃ p ∈ spriteTargets x0 y0 bs, pixel fb p.1 p.2 = true := by
  have h := (drawPixels_from _ fb false (fun _ h => spriteTargets_inside h) (nodup_spriteTargets x0 y0 bs hlen)).2
  unfold drawPixels
  rw [h]
  simp only [Bool.false_or, List.any_eq_true]

/-- `DXYN` (R151): in range, the sprite of the N bytes from I is drawn at the wrapped position. -/
theorem execDrw_eq (x y : Reg) (n : BitVec 4) (s : State) :
    execDrw x y n s =
      if n.toNat = 0 ∨ s.i.toNat + n.toNat ≤ 4096 then
        .next (s.drawSprite ((s.reg x).toNat % 64) ((s.reg y).toNat % 32) (s.mem.getBytes s.i.toNat n.toNat))
      else s.raise .addressOutOfRange := by
  rw [execDrw, Memory.read_eq_ite]
  by_cases h : n.toNat = 0 ∨ s.i.toNat + n.toNat ≤ 4096
  · rw [if_pos h, if_pos h]
  · rw [if_neg h, if_neg h]

end Sys2Proof.Machine
end

