-- ==== Sys2Proof/Laws/PerInstr.lean ====
section
/-! SUPPORT. Per-instruction laws: every constructor's operand values fit their fields (30_encoding.md R71, R73). -/

namespace Sys2Proof.Laws.FieldsFit

/-- The instruction is well formed: each operand value is admissible in its field. -/
def Statement (i : Instr) : Prop := i.wellFormed = true

theorem fits_nil : operandsFit [] = true := rfl

theorem fits_cons {f : Field} {n : Nat} {l : List (Field × Nat)} (h : n < f.bound) (hl : operandsFit l = true) :
    operandsFit ((f, n) :: l) = true := by
  simpa [operandsFit, Field.admits, h] using hl

theorem cls : Statement (.cls) :=
  fits_nil
theorem ret : Statement (.ret) :=
  fits_nil
theorem jp (nnn : BitVec 12) : Statement (.jp nnn) :=
  fits_cons nnn.isLt fits_nil
theorem call (nnn : BitVec 12) : Statement (.call nnn) :=
  fits_cons nnn.isLt fits_nil
theorem seImm (x : Reg) (nn : Byte) : Statement (.seImm x nn) :=
  fits_cons x.isLt (fits_cons nn.isLt fits_nil)
theorem sneImm (x : Reg) (nn : Byte) : Statement (.sneImm x nn) :=
  fits_cons x.isLt (fits_cons nn.isLt fits_nil)
theorem seReg (x y : Reg) : Statement (.seReg x y) :=
  fits_cons x.isLt (fits_cons y.isLt fits_nil)
theorem ldImm (x : Reg) (nn : Byte) : Statement (.ldImm x nn) :=
  fits_cons x.isLt (fits_cons nn.isLt fits_nil)
theorem addImm (x : Reg) (nn : Byte) : Statement (.addImm x nn) :=
  fits_cons x.isLt (fits_cons nn.isLt fits_nil)
theorem ldReg (x y : Reg) : Statement (.ldReg x y) :=
  fits_cons x.isLt (fits_cons y.isLt fits_nil)
theorem orReg (x y : Reg) : Statement (.orReg x y) :=
  fits_cons x.isLt (fits_cons y.isLt fits_nil)
theorem andReg (x y : Reg) : Statement (.andReg x y) :=
  fits_cons x.isLt (fits_cons y.isLt fits_nil)
theorem xorReg (x y : Reg) : Statement (.xorReg x y) :=
  fits_cons x.isLt (fits_cons y.isLt fits_nil)
theorem addReg (x y : Reg) : Statement (.addReg x y) :=
  fits_cons x.isLt (fits_cons y.isLt fits_nil)
theorem subReg (x y : Reg) : Statement (.subReg x y) :=
  fits_cons x.isLt (fits_cons y.isLt fits_nil)
theorem shr (x y : Reg) : Statement (.shr x y) :=
  fits_cons x.isLt (fits_cons y.isLt fits_nil)
theorem subn (x y : Reg) : Statement (.subn x y) :=
  fits_cons x.isLt (fits_cons y.isLt fits_nil)
theorem shl (x y : Reg) : Statement (.shl x y) :=
  fits_cons x.isLt (fits_cons y.isLt fits_nil)
theorem sneReg (x y : Reg) : Statement (.sneReg x y) :=
  fits_cons x.isLt (fits_cons y.isLt fits_nil)
theorem ldI (nnn : BitVec 12) : Statement (.ldI nnn) :=
  fits_cons nnn.isLt fits_nil
theorem jpV0 (nnn : BitVec 12) : Statement (.jpV0 nnn) :=
  fits_cons nnn.isLt fits_nil
theorem rnd (x : Reg) (nn : Byte) : Statement (.rnd x nn) :=
  fits_cons x.isLt (fits_cons nn.isLt fits_nil)
theorem drw (x y : Reg) (n : BitVec 4) : Statement (.drw x y n) :=
  fits_cons x.isLt (fits_cons y.isLt (fits_cons n.isLt fits_nil))
theorem skp (x : Reg) : Statement (.skp x) :=
  fits_cons x.isLt fits_nil
theorem sknp (x : Reg) : Statement (.sknp x) :=
  fits_cons x.isLt fits_nil
theorem readDelay (x : Reg) : Statement (.readDelay x) :=
  fits_cons x.isLt fits_nil
theorem waitKey (x : Reg) : Statement (.waitKey x) :=
  fits_cons x.isLt fits_nil
theorem setDelay (x : Reg) : Statement (.setDelay x) :=
  fits_cons x.isLt fits_nil
theorem setSound (x : Reg) : Statement (.setSound x) :=
  fits_cons x.isLt fits_nil
theorem addI (x : Reg) : Statement (.addI x) :=
  fits_cons x.isLt fits_nil
theorem ldFont (x : Reg) : Statement (.ldFont x) :=
  fits_cons x.isLt fits_nil
theorem storeBcd (x : Reg) : Statement (.storeBcd x) :=
  fits_cons x.isLt fits_nil
theorem storeRegs (x : Reg) : Statement (.storeRegs x) :=
  fits_cons x.isLt fits_nil
theorem loadRegs (x : Reg) : Statement (.loadRegs x) :=
  fits_cons x.isLt fits_nil

end Sys2Proof.Laws.FieldsFit
end

