-- ==== Sys2Proof/Laws/Step.lean ====
section
/-! SUPPORT. What fetching and stepping can do, once (40_cycle.md R90 to R95). -/

namespace Sys2Proof.Machine

variable {s t : State}

/-- Fetch answers the big-endian word at PC exactly when PC is below 4095 (R92). -/
theorem State.fetch_eq (s : State) :
    s.fetch = if s.pc.toNat < 4095 then
        .ok (joinBytes (s.mem.get s.pc.toNat) (s.mem.get (s.pc.toNat + 1)))
      else .error .addressOutOfRange := by
  rw [State.fetch, Memory.read_eq_ite]
  by_cases h : s.pc.toNat < 4095
  · rw [if_pos h, if_pos (by omega)]; rfl
  · rw [if_neg h, if_neg (by omega)]

/-- An instruction is fetched and decoded exactly when PC is below 4095 and the word at PC decodes to it. -/
theorem State.fetchInstr_eq_ok {i : Instr} :
    s.fetchInstr = .ok i ↔ s.pc.toNat < 4095 ∧
      decode (joinBytes (s.mem.get s.pc.toNat) (s.mem.get (s.pc.toNat + 1))) = .ok i := by
  rw [State.fetchInstr, State.fetch_eq]
  by_cases h : s.pc.toNat < 4095
  · rw [if_pos h]
    simp only [h, true_and]
    split <;> simp_all
  · simp [h]

theorem step_of_halted {c : Cause} (h : s.status = .halted c) : step s = .next s := by
  simp [step, h]

theorem step_of_error {c : Cause} (hr : s.status = .running) (h : s.fetchInstr = .error c) :
    step s = .next (s.setStatus (.halted c)) := by
  simp [step, hr, h, State.raise]

theorem step_of_ok {i : Instr} (hr : s.status = .running) (h : s.fetchInstr = .ok i) : step s = exec i s := by
  simp [step, hr, h]

/-- All that a step can do. -/
theorem step_cases (h : step s = .next t) :
    (∃ c, s.status = .halted c ∧ t = s) ∨
    (s.status = .running ∧ ∃ c, s.fetchInstr = .error c ∧ t = s.setStatus (.halted c)) ∨
    (s.status = .running ∧ ∃ i, s.fetchInstr = .ok i ∧ exec i s = .next t) := by
  cases hs : s.status with
  | halted c => rw [step_of_halted hs] at h; cases h; exact .inl ⟨c, rfl, rfl⟩
  | running =>
    cases hf : s.fetchInstr with
    | error c => rw [step_of_error hs hf] at h; cases h; exact .inr (.inl ⟨rfl, c, rfl, rfl⟩)
    | ok i => rw [step_of_ok hs hf] at h; exact .inr (.inr ⟨rfl, i, rfl, h⟩)

end Sys2Proof.Machine
end

