-- ==== Sys2Proof/Tests/Slice0.lean ====
section
/-! SUPPORT. Tests. The expected values are those of spec/95_test_vectors.md (its S and T numbers stand in the comments),
never the model's own answers. The witnesses at the end meet the hypotheses of the statements in
Sys2Proof/Certificates/Slice0/Obligations.lean. -/

namespace Sys2Proof.Tests

open Sys2Proof Sys2Proof.Machine

/-! ### Well-formedness: each field refuses the first value that does not fit -/

theorem test_wf_reg_refuses_16 : operandsFit [(.reg, 15)] = true ∧ operandsFit [(.reg, 16)] = false := by decide
theorem test_wf_imm4_refuses_16 : operandsFit [(.imm4, 15)] = true ∧ operandsFit [(.imm4, 16)] = false := by decide
theorem test_wf_imm8_refuses_256 : operandsFit [(.imm8, 255)] = true ∧ operandsFit [(.imm8, 256)] = false := by decide
theorem test_wf_imm12_refuses_4096 :
    operandsFit [(.imm12, 4095)] = true ∧ operandsFit [(.imm12, 4096)] = false := by decide
theorem test_wf_checks_every_operand : operandsFit [(.reg, 1), (.reg, 16), (.imm4, 5)] = false := by decide
theorem test_wf_drw : (Instr.drw 0xF 0xF 0xF).wellFormed = true := by decide

/-! ### Words that decode, or do not, beside those of Sys2Proof/Decode.lean -/

/-- T164: unknown words of each family that has any. -/
theorem test_decode_unknown :
    ([0x00E1, 0x00EF, 0x0200, 0x5001, 0x8008, 0x800F, 0x9001, 0xE09F, 0xE0A2, 0xF00B, 0xF056, 0xFFFF] : List Word).map
      (fun w => (decode w).toOption) = List.replicate 12 none := by decide

/-- The fields of 0xD125 by R71. -/
theorem test_fields : fieldF 0xD125 = 0xD ∧ fieldX 0xD125 = 1 ∧ fieldY 0xD125 = 2 ∧ fieldN 0xD125 = 5 ∧
    fieldNN 0xD125 = 0x25 ∧ fieldNNN 0xD125 = 0x125 := by decide

/-- The host's form of a word: bits above `nbits` are dropped. -/
theorem test_decodeTableWord : decodeTableWord 16 0x6A2F = some (.ldImm 0xA 0x2F) ∧ decodeTableWord 16 0x5001 = none := by
  decide

/-! ### One step of one instruction -/

/-- The reset state with some registers, some memory bytes and I set. -/
def start (regs : List (Reg × Byte)) (i : Word := 0) (bytes : List (Nat × Byte) := []) : State :=
  { State.reset with
    v := (regs.foldl (fun s p => s.setReg p.1 p.2) State.reset).v
    i := i
    mem := bytes.foldl (fun m p => m.set p.1 p.2) [] }

/-- What `f` reads after one step of the word `w` placed at PC. -/
def after {α : Type} (s : State) (w : Word) (f : State → α) : Option α :=
  match step (s.placeWord w) with
  | .next t => some (f t)
  | _ => none

/-- The pixels that are set, by row and then by column. -/
def lit (fb : Framebuffer) : List (Nat × Nat) :=
  (List.range 32).flatMap fun y => ((List.range 64).filter fun x => pixel fb x y).map fun x => (x, y)

/-- FB with the listed pixels set. -/
def fbWith (ps : List (Nat × Nat)) : Framebuffer := ps.foldl (fun fb p => togglePixel fb p.1 p.2) clearFb

/-- The keys of the listed numbers pressed. -/
def keysOf (ks : List Nat) : Vector Bool 16 := Vector.ofFn fun k => ks.contains k.val

/-- The first entries of the call stack, the rest 0. -/
def stackOf (a : Word) (k : Fin 16) : Vector Word 16 := (Vector.replicate 16 0).set k a

/-- The halted status with one cause. -/
abbrev halt (c : Cause) : Status := .halted c

/-! Control transfer. -/

/-- T1. -/
theorem test_ret : after { start [] with pc := 0x456, sp := 1, stack := stackOf 0x202 0 } 0x00EE
    (fun t => (t.sp, t.pc, t.stack[0], t.status)) = some (0, 0x202, 0x202, .running) := by decide
/-- T2. -/
theorem test_ret_underflow : after (start []) 0x00EE (fun t => (t.pc, t.status)) =
    some (0x200, halt .stackUnderflow) := by decide
/-- T8. -/
theorem test_jp_odd : after (start []) 0x1201 (fun t => t.pc) = some 0x201 := by decide
/-- T5. -/
theorem test_jp : after { start [] with pc := 0x20A } 0x1204 (fun t => t.pc) = some 0x204 := by decide
/-- T10. -/
theorem test_call : after { start [] with sp := 15 } 0x2456 (fun t => (t.stack[15], t.sp, t.pc)) =
    some (0x202, 16, 0x456) := by decide
/-- T11. -/
theorem test_call_overflow : after { start [] with sp := 16 } 0x2456 (fun t => (t.stack[15], t.sp, t.pc, t.status)) =
    some (0, 16, 0x200, halt .stackOverflow) := by decide
/-- T14. -/
theorem test_jpV0_not_reduced : after (start [(0, 0xFF)]) 0xBFFF (fun t => t.pc) = some 0x10FE := by decide
/-- T15. -/
theorem test_jpV0_is_v0 : after (start [(3, 0x55)]) 0xB300 (fun t => t.pc) = some 0x300 := by decide
/-- T19. -/
theorem test_seImm_skips : after (start [(0xF, 1)]) 0x3F01 (fun t => (t.pc, t.reg VF)) = some (0x204, 1) := by
  decide
/-- T18. -/
theorem test_seImm_not : after { start [(0, 1)] with pc := 0x208 } 0x3000 (fun t => t.pc) = some 0x20A := by
  decide
/-- T20. -/
theorem test_sneImm_not : after { start [(0xA, 0x10)] with pc := 0x300 } 0x4A10 (fun t => t.pc) = some 0x302 := by
  decide
/-- T21. -/
theorem test_sneImm_skips : after { start [(0xA, 0x11)] with pc := 0x300 } 0x4A10 (fun t => t.pc) = some 0x304 := by
  decide
/-- T22. -/
theorem test_seReg_skips : after (start [(1, 0x33), (2, 0x33)]) 0x5120 (fun t => t.pc) = some 0x204 := by decide
/-- T23. -/
theorem test_seReg_not : after (start [(1, 0x33), (2, 0x34)]) 0x5120 (fun t => t.pc) = some 0x202 := by decide
/-- T26. -/
theorem test_sneReg_skips : after (start [(1, 0x33), (2, 0x34)]) 0x9120 (fun t => t.pc) = some 0x204 := by decide
/-- T28. -/
theorem test_sneReg_same_register : after (start [(3, 9)]) 0x9330 (fun t => t.pc) = some 0x202 := by decide

/-! Constants and random. -/

/-- S1, T32. -/
theorem test_ldImm : after (start []) 0x6A2F (fun t => (t.reg 0xA, t.pc)) = some (0x2F, 0x202) := by decide
/-- T33. -/
theorem test_ldImm_vf : after (start [(0xF, 1)]) 0x6F00 (fun t => t.reg VF) = some 0 := by decide
/-- S2, T36. -/
theorem test_addImm_no_flag : after (start [(0, 0xFF), (0xF, 1)]) 0x7001 (fun t => (t.reg 0, t.reg VF, t.pc)) =
    some (0, 1, 0x202) := by decide
/-- T38. -/
theorem test_addImm_vf : after (start [(0xF, 0xFF)]) 0x7F02 (fun t => t.reg VF) = some 1 := by decide
/-- T41, for every draw: the mask 00 gives 00. -/
theorem test_rnd_mask_zero : after (start [(3, 0x55)]) 0xC300 (fun t => (t.reg 3, t.pc)) = some (0, 0x202) := by
  have h : after (start [(3, 0x55)]) 0xC300 (fun t => (t.reg 3, t.pc)) = some (Config.randByte 0 &&& 0#8, 0x202#16) := rfl
  simpa using h

/-! The ALU group. -/

/-- T45. -/
theorem test_ldReg : after (start [(0xF, 1)]) 0x8EF0 (fun t => (t.reg 0xE, t.pc)) = some (1, 0x202) := by decide
/-- T47. -/
theorem test_ldReg_vf : after (start [(1, 7), (0xF, 1)]) 0x8F10 (fun t => t.reg VF) = some 7 := by decide
/-- T48. -/
theorem test_or : after (start [(1, 0xF0), (2, 0x0F), (0xF, 1)]) 0x8121 (fun t => (t.reg 1, t.reg VF)) =
    some (0xFF, 1) := by decide
/-- T52. -/
theorem test_or_vf : after (start [(2, 0xA0), (0xF, 1)]) 0x8F21 (fun t => t.reg VF) = some 0xA1 := by decide
/-- T49. -/
theorem test_and : after (start [(1, 0xF3), (2, 0x3C), (0xF, 1)]) 0x8122 (fun t => (t.reg 1, t.reg VF)) =
    some (0x30, 1) := by decide
/-- T50. -/
theorem test_xor : after (start [(1, 0xFF), (2, 0x0F), (0xF, 1)]) 0x8123 (fun t => (t.reg 1, t.reg VF)) =
    some (0xF0, 1) := by decide
/-- T51. -/
theorem test_xor_self : after (start [(1, 0x5A)]) 0x8113 (fun t => t.reg 1) = some 0 := by decide
/-- S3. -/
theorem test_add_wraps : after (start [(0, 0xFF), (1, 1)]) 0x8014 (fun t => (t.reg 0, t.reg VF)) = some (0, 1) := by
  decide
/-- T58. -/
theorem test_add_vf_destination : after (start [(0xF, 0x10), (1, 2)]) 0x8F14 (fun t => t.reg VF) = some 0 := by
  decide
/-- S4. -/
theorem test_sub_borrows : after (start [(0, 3), (1, 5), (0xF, 1)]) 0x8015 (fun t => (t.reg 0, t.reg VF)) =
    some (0xFE, 0) := by decide
/-- T61. -/
theorem test_sub_equal : after (start [(0, 7), (1, 7)]) 0x8015 (fun t => (t.reg 0, t.reg VF)) = some (0, 1) := by
  decide
/-- T67. -/
theorem test_subn : after (start [(1, 3), (2, 5)]) 0x8127 (fun t => (t.reg 1, t.reg VF)) = some (2, 1) := by
  decide
/-- T71. -/
theorem test_subn_old_vf : after (start [(1, 3), (0xF, 1)]) 0x81F7 (fun t => (t.reg 1, t.reg VF)) = some (0xFE, 0) := by
  decide
/-- T72a. -/
theorem test_shr_vy : after (start [(1, 0xAA), (2, 5)]) 0x8126 (fun t => (t.reg 1, t.reg VF, t.reg 2)) =
    some (2, 1, 5) := by decide
/-- T72b. -/
theorem test_shr_vx : after { start [(1, 0xAA), (2, 5)] with shiftSrc := .vx } 0x8126 (fun t => (t.reg 1, t.reg VF)) =
    some (0x55, 0) := by decide
/-- T79a. -/
theorem test_shl_vy : after (start [(1, 0x7F), (2, 0x80)]) 0x812E (fun t => (t.reg 1, t.reg VF)) = some (0, 1) := by
  decide
/-- T82b. -/
theorem test_shl_vx : after { start [(1, 1), (0xF, 0x80)] with shiftSrc := .vx } 0x81FE
    (fun t => (t.reg 1, t.reg VF)) = some (2, 0) := by decide

/-! Framebuffer. -/

/-- T83. -/
theorem test_cls : after { start [(0xF, 1)] with fb := fbWith [(0, 0), (63, 31), (5, 7)] } 0x00E0
    (fun t => (lit t.fb, t.reg VF, t.pc)) = some ([], 1, 0x202) := by decide
/-- T87. -/
theorem test_drw_wraps : after (start [(0, 62), (1, 31)] 0x300 [(0x300, 0xC0), (0x301, 0xC0)]) 0xD012
    (fun t => (lit t.fb, t.reg VF, t.i)) = some ([(62, 0), (63, 0), (62, 31), (63, 31)], 0, 0x300) := by decide
/-- T92. -/
theorem test_drw_collides : after { start [] 0x300 [(0x300, 0x80), (0x301, 0x40)] with fb := fbWith [(0, 0)] } 0xD012
    (fun t => (lit t.fb, t.reg VF)) = some ([(1, 1)], 1) := by decide

/-! Keys and timers. -/

/-- T100. -/
theorem test_skp_other_keys : after { start [(1, 7)] with pc := 0x208, keys := keysOf [6, 8] } 0xE19E
    (fun t => t.pc) = some 0x20A := by decide
/-- T101. -/
theorem test_skp_no_such_key : after { start [(1, 0x10)] with keys := keysOf [0] } 0xE19E
    (fun t => (t.pc, t.status)) = some (0x200, halt .keyIndexOutOfRange) := by decide
/-- T103. -/
theorem test_sknp_skips : after { start [(0, 0xF)] with pc := 0x300 } 0xE0A1 (fun t => t.pc) = some 0x304 := by
  decide
/-- T104. -/
theorem test_sknp_not : after { start [(0, 0xF)] with pc := 0x300, keys := keysOf [15] } 0xE0A1 (fun t => t.pc) =
    some 0x302 := by decide
/-- T110. -/
theorem test_readDelay : after { start [] with dt := 0xFF } 0xFF07 (fun t => (t.reg VF, t.dt, t.pc)) =
    some (0xFF, 0xFF, 0x202) := by decide
/-- T111. -/
theorem test_waitKey_waits : after { start [(1, 5)] with pc := 0x204 } 0xF10A (fun t => (t.reg 1, t.pc, t.status)) =
    some (5, 0x204, .running) := by decide
/-- T112. -/
theorem test_waitKey : after { start [] with pc := 0x204, keys := keysOf [7] } 0xF10A (fun t => (t.reg 1, t.pc)) =
    some (7, 0x206) := by decide
/-- T116. -/
theorem test_setDelay : after (start [(0, 3)]) 0xF015 (fun t => (t.dt, t.st, t.pc)) = some (3, 0, 0x202) := by
  decide
/-- T120. -/
theorem test_setSound : after { start [] with st := 5 } 0xF218 (fun t => (t.st, t.soundOn, t.dt)) =
    some (0, false, 0) := by decide

/-! Index register and memory. -/

/-- T125. -/
theorem test_ldI : after (start [] 0xFFFF) 0xAFFF (fun t => (t.i, t.pc)) = some (0xFFF, 0x202) := by decide
/-- T128. -/
theorem test_addI_no_flag : after (start [(1, 1)] 0xFFF) 0xF11E (fun t => (t.i, t.reg VF)) = some (0x1000, 0) := by
  decide
/-- T130. -/
theorem test_addI_wraps : after (start [(1, 0xFF)] 0xFF80) 0xF11E (fun t => t.i) = some 0x7F := by decide
/-- T132. -/
theorem test_ldFont : after (start [(0, 0xA)]) 0xF029 (fun t => (t.i, t.pc)) = some (0x32, 0x202) := by decide
/-- T136. -/
theorem test_ldFont_no_mask : after (start [(0, 0xFF)]) 0xF029 (fun t => t.i) = some 0x4FB := by decide
/-- S9. -/
theorem test_storeBcd : after (start [(0, 157)] 0x300) 0xF033 (fun t => (t.mem.getBytes 0x300 3, t.i, t.pc)) =
    some ([1, 5, 7], 0x300, 0x202) := by decide
/-- T143. -/
theorem test_storeBcd_range : after (start [(0, 0xC8)] 0xFFE) 0xF033
    (fun t => (t.mem.getBytes 0xFFE 2, t.pc, t.status)) = some ([0, 0], 0x200, halt .addressOutOfRange) := by
  decide
/-- T146. -/
theorem test_storeRegs : after (start [(0, 0x11), (1, 0x22), (2, 0x33), (3, 0x44)] 0x400) 0xF255
    (fun t => (t.mem.getBytes 0x400 4, t.i)) = some ([0x11, 0x22, 0x33, 0], 0x400) := by decide
/-- T148. -/
theorem test_storeRegs_range : after (start [(0, 0xAB), (1, 0xCD)] 0xFFF) 0xF155
    (fun t => (t.mem.get 0xFFF, t.pc, t.status)) = some (0, 0x200, halt .addressOutOfRange) := by decide
/-- T152. -/
theorem test_loadRegs : after (start [(3, 0x99)] 0x300 [(0x300, 1), (0x301, 5), (0x302, 7), (0x303, 8)]) 0xF265
    (fun t => ([t.reg 0, t.reg 1, t.reg 2, t.reg 3], t.i)) = some ([1, 5, 7, 0x99], 0x300) := by decide
/-- T158. -/
theorem test_loadRegs_itself : after (start [] 0x200) 0xF165 (fun t => (t.reg 0, t.reg 1)) = some (0xF1, 0x65) := by
  decide

/-! The step, the events, reset. -/

/-- T160: the second byte of the word at 0FFF would be at 1000. -/
theorem test_fetch_range : after { start [] 0 [(0xFFF, 0x60)] with pc := 0xFFF } 0x6012 (fun t => (t.pc, t.status)) =
    some (0xFFF, halt .addressOutOfRange) := by decide
/-- T163: the empty ROM. -/
theorem test_step_of_reset : step State.reset = .next { State.reset with status := .halted .unknownInstruction } := rfl
/-- T122. -/
theorem test_tick_halted : ({ start [] with dt := 3, status := .halted .unknownInstruction }.tick).dt = 2 := by decide
/-- T123. -/
theorem test_keyWrite : ((start []).keyWrite 7 true).key 7 = true ∧
    (((start []).keyWrite 7 true).keyWrite 7 false).key 7 = false := by decide
/-- T169. -/
theorem test_resetRom_one_byte : ∃ t, ({ start [] with dt := 9 }).resetRom [0xAB] = .next t ∧
    t.mem.getBytes 0x200 2 = [0xAB, 0] ∧ t.dt = 0 := ⟨_, rfl, by decide, by decide⟩
/-- R37 and T96: glyph 0 of the conventional font, drawn. -/
theorem test_font_glyph_zero : State.reset.mem.getBytes 0 5 = [0xF0, 0x90, 0x90, 0x90, 0xF0] := by decide

/-! ### Witnesses: each meets the hypotheses of the statement it is named after, every clause at a boundary value -/

/-- The state after reset with the word `w` at `pc`. -/
def placed (pc w : Word) : State := State.placeWord { State.reset with pc := pc } w

theorem witness_EncodeOfDecode : decode 0xFF65 = .ok (.loadRegs 0xF) := by decide

/-- One word of each line of R78's list, and one that is on none. -/
theorem witness_UnknownWordsAreExactlyThese :
    (fieldF 0x00EF = 0x0 ∧ (0x00EF : Word) ≠ 0x00E0 ∧ (0x00EF : Word) ≠ 0x00EE) ∧
    (fieldF 0x5001 = 0x5 ∧ fieldN 0x5001 ≠ 0) ∧
    (fieldF 0x800F = 0x8 ∧ fieldN 0x800F ∈ [0x8#4, 0x9#4, 0xA#4, 0xB#4, 0xC#4, 0xD#4, 0xF#4]) ∧
    (fieldF 0x900F = 0x9 ∧ fieldN 0x900F ≠ 0) ∧
    (fieldF 0xE09F = 0xE ∧ fieldNN 0xE09F ∉ [0x9E#8, 0xA1#8]) ∧
    (fieldF 0xFFFF = 0xF ∧
      fieldNN 0xFFFF ∉ [0x07#8, 0x0A#8, 0x15#8, 0x18#8, 0x1E#8, 0x29#8, 0x33#8, 0x55#8, 0x65#8]) ∧
    (decode 0x00EE).toOption ≠ none := by decide

theorem witness_StepRunsDecodedInstruction : (placed 0xFFE 0x6012).status = .running ∧
    (placed 0xFFE 0x6012).pc.toNat + 1 < 4096 ∧
    decode (Claims.wordAtPc (placed 0xFFE 0x6012)) = .ok (.ldImm 0 0x12) ∧ (Instr.ldImm 0 0x12).wellFormed = true := by
  decide

theorem witness_OneByteAccesses : (4095 < 4096 ∧ Memory.read [] 4095 1 = some [0]) ∧
    (4096 ≤ 4096 ∧ Memory.read [] 4096 1 = none) := by decide

theorem witness_FetchIsBigEndianAndRangeChecked : (placed 0xFFE 0x6012).pc.toNat + 1 < 4096 ∧
    4096 ≤ ({ State.reset with pc := 0xFFF }).pc.toNat + 1 := by decide

theorem witness_FetchOutOfRangeHalts : ({ State.reset with pc := 0xFFF }).status = .running ∧
    4095 ≤ ({ State.reset with pc := 0xFFF }).pc.toNat := by decide

theorem witness_UnknownWordHalts : (placed 0xFFE 0x5001).status = .running ∧ (placed 0xFFE 0x5001).pc.toNat + 1 < 4096 ∧
    decode (Claims.wordAtPc (placed 0xFFE 0x5001)) = .error .unknownInstruction := by decide

theorem witness_HaltedCoreStaysHalted :
    ({ State.reset with status := .halted .stackOverflow }).status = .halted .stackOverflow ∧
    (∀ rom, Event.tick ≠ .reset rom) := ⟨rfl, nofun⟩

/-- A step that succeeds and a step that raises an error. -/
theorem witness_ErrorStepChangesOnlyStatus :
    ((placed 0x200 0x6012).status = .running ∧ ∃ t, step (placed 0x200 0x6012) = .next t) ∧
    (State.reset.status = .running ∧ step State.reset = .next { State.reset with status := .halted .unknownInstruction }) :=
  ⟨⟨rfl, _, rfl⟩, rfl, rfl⟩

/-- Each error, from an instruction that raises it. -/
theorem witness_ErrorsByInstruction :
    (∃ t, exec .ret State.reset = .next t ∧ t.status = .halted .stackUnderflow) ∧
    (∃ t, exec (.call 0) { State.reset with sp := 16 } = .next t ∧ t.status = .halted .stackOverflow) ∧
    (∃ t, exec (.drw 0 0 1) { State.reset with i := 0x1000 } = .next t ∧ t.status = .halted .addressOutOfRange) ∧
    (∃ t, exec (.storeBcd 0) { State.reset with i := 0xFFE } = .next t ∧ t.status = .halted .addressOutOfRange) ∧
    (∃ t, exec (.storeRegs 1) { State.reset with i := 0xFFF } = .next t ∧ t.status = .halted .addressOutOfRange) ∧
    (∃ t, exec (.loadRegs 0) { State.reset with i := 0x1000 } = .next t ∧ t.status = .halted .addressOutOfRange) ∧
    (∃ t, exec (.skp 0) (start [(0, 16)]) = .next t ∧ t.status = .halted .keyIndexOutOfRange) :=
  ⟨⟨_, rfl, rfl⟩, ⟨_, rfl, rfl⟩, ⟨_, rfl, rfl⟩, ⟨_, rfl, rfl⟩, ⟨_, rfl, rfl⟩, ⟨_, rfl, rfl⟩, ⟨_, rfl, rfl⟩⟩

theorem witness_ReturnPopsTheStack : 0 < ({ State.reset with sp := 1 }).sp.val ∧
    0 < ({ State.reset with sp := 16 }).sp.val ∧ State.reset.sp.val = 0 := by decide

theorem witness_CallPushesReturnAddress : ({ State.reset with sp := 15 }).sp.val < 16 ∧
    ({ State.reset with sp := 16 }).sp.val = 16 ∧ 14 < 16 ∧ 14 ≠ ({ State.reset with sp := 15 }).sp.val := by decide

/-- The premises on the word of the statements about one instruction each, met by the greatest word of the family. -/
theorem witness_families : fieldF 0x1FFF = 0x1 ∧ fieldF 0x2FFF = 0x2 ∧ fieldF 0x3FFF = 0x3 ∧ fieldF 0x4FFF = 0x4 ∧
    fieldF 0x5FFF = 0x5 ∧ fieldF 0x6FFF = 0x6 ∧ fieldF 0x7FFF = 0x7 ∧ fieldF 0x9FFF = 0x9 ∧ fieldF 0xAFFF = 0xA ∧
    fieldF 0xBFFF = 0xB ∧ fieldF 0xCFFF = 0xC ∧ fieldF 0xDFFF = 0xD := by decide

/-- The same for the words of family 8, by sub-opcode. -/
theorem witness_alu_words : ([0x8FF0, 0x8FF1, 0x8FF2, 0x8FF3, 0x8FF4, 0x8FF5, 0x8FF6, 0x8FF7, 0x8FFE] : List Word).map
    (fun w => (fieldF w, fieldN w)) = [(8, 0), (8, 1), (8, 2), (8, 3), (8, 4), (8, 5), (8, 6), (8, 7), (8, 0xE)] := by
  decide

/-- The same for the words of families E and F, by sub-opcode. -/
theorem witness_sub_words : ([0xEF9E, 0xEFA1, 0xFF07, 0xFF0A, 0xFF15, 0xFF18, 0xFF1E, 0xFF29, 0xFF33, 0xFF55, 0xFF65] :
    List Word).map (fun w => (fieldF w, fieldNN w)) = [(0xE, 0x9E), (0xE, 0xA1), (0xF, 0x07), (0xF, 0x0A), (0xF, 0x15),
    (0xF, 0x18), (0xF, 0x1E), (0xF, 0x29), (0xF, 0x33), (0xF, 0x55), (0xF, 0x65)] := by decide

/-- Both outcomes of each skip condition. -/
theorem witness_SkipOnImmediate : State.reset.reg 0 = 0 ∧ State.reset.reg 0 ≠ 0xFF := by decide

theorem witness_SkipOnRegisters : State.reset.reg 0 = State.reset.reg 1 ∧ (start [(0, 1)]).reg 0 ≠ (start [(0, 1)]).reg 1 := by
  decide

theorem witness_AddImmediateWithoutFlag : (0xE : Reg) ≠ VF := by decide

theorem witness_AssignAndLogic : (0 : Reg) ≠ VF := by decide

/-- The carry at its boundary: 255 gives none, 256 gives one. -/
theorem witness_AddWithCarryFlag :
    255 < ((start [(0, 0xFF), (1, 1)]).reg 0).toNat + ((start [(0, 0xFF), (1, 1)]).reg 1).toNat ∧
    ¬ 255 < ((start [(0, 0xFF)]).reg 0).toNat + ((start [(0, 0xFF)]).reg 1).toNat ∧ (0 : Reg) ≠ VF := by decide

/-- No borrow at its boundary: equal operands, and one below. -/
theorem witness_SubtractWithNoBorrowFlag : ((start []).reg 1).toNat ≤ ((start []).reg 0).toNat ∧
    ¬ ((start [(1, 1)]).reg 1).toNat ≤ ((start [(1, 1)]).reg 0).toNat ∧ (0 : Reg) ≠ VF := by decide

theorem witness_ReverseSubtractWithNoBorrowFlag : ((start []).reg 0).toNat ≤ ((start []).reg 1).toNat ∧
    ¬ ((start [(0, 1)]).reg 0).toNat ≤ ((start [(0, 1)]).reg 1).toNat ∧ (0 : Reg) ≠ VF := by decide

theorem witness_ShiftRightByOne : (Claims.shiftSrcReg (start [(1, 1)]) 0 1).toNat % 2 = 1 ∧
    ¬ (Claims.shiftSrcReg { start [(1, 1)] with shiftSrc := .vx } 0 1).toNat % 2 = 1 := by decide

theorem witness_ShiftLeftByOne : (Claims.shiftSrcReg (start [(1, 0x80)]) 0 1).toNat / 128 = 1 ∧
    ¬ (Claims.shiftSrcReg (start [(1, 0x7F)]) 0 1).toNat / 128 = 1 := by decide

/-- A state for the sprite statements: one byte 80 at the last address, pixel (0, 0) set. -/
def drawState : State := { start [] 0xFFF [(0xFFF, 0x80)] with fb := fbWith [(0, 0)] }

/-- N = 0 at an I out of range; one row at the last address; a pixel covered, and set; a pixel not covered. -/
theorem witness_DrawXorsTheSprite : ((0 : BitVec 4).toNat = 0 ∧ ({ State.reset with i := 0xFFFF }).i.toNat = 65535) ∧
    drawState.i.toNat + (1 : BitVec 4).toNat - 1 < 4096 ∧
    (Claims.SpriteCovers drawState 0 0 1 0 0 ∧ pixel drawState.fb 0 0 = true) ∧
    ¬ Claims.SpriteCovers drawState 0 0 1 0 1 ∧
    ¬ ∃ px py, Claims.SpriteCovers drawState 0 0 0 px py ∧ pixel drawState.fb px py = true := by
  refine ⟨by decide, by decide, ⟨⟨0, 0, by decide⟩, by decide⟩, ?_, ?_⟩
  · rintro ⟨row, col, h, -, -, -, h2⟩
    have h3 : ((drawState.reg 0).toNat % 32 + row) % 32 = row := by
      have : (drawState.reg 0).toNat = 0 := by decide
      have : (1 : BitVec 4).toNat = 1 := by decide
      omega
    have : (1 : BitVec 4).toNat = 1 := by decide
    omega
  · rintro ⟨px, py, ⟨row, col, h, -⟩, -⟩
    have : (0 : BitVec 4).toNat = 0 := by decide
    omega

theorem witness_DrawTwiceRestores : (0 : Reg) ≠ VF ∧ (0xE : Reg) ≠ VF ∧
    drawState.i.toNat + (1 : BitVec 4).toNat - 1 < 4096 := by decide

theorem witness_SkipOnKey : ((start [(0, 15)]).reg 0).toNat ≤ 15 ∧
    ({ start [(0, 15)] with keys := keysOf [15] }).key 15 = true ∧ (start [(0, 15)]).key 15 = false := by decide

theorem witness_KeyNumberAbove15Halts : 15 < ((start [(0, 16)]).reg 0).toNat ∧ 15 < ((start [(0, 255)]).reg 0).toNat := by
  decide

/-- No key, the last key alone, and several keys. -/
theorem witness_WaitForKey : (∀ k < 16, State.reset.key k = false) ∧
    (∃ k < 16, ({ State.reset with keys := keysOf [15] }).key k = true) ∧
    (∃ k < 16, ({ State.reset with keys := keysOf [3, 9, 12] }).key k = true) := by decide

theorem witness_FontGlyphAddress : ((start [(0, 15)]).reg 0).toNat ≤ 15 ∧ 4 < 5 := by decide

/-- The last I in range, and the address just below the stored bytes. -/
theorem witness_StoreDecimalDigits : (start [] 0xFFD).i.toNat + 2 < 4096 ∧ 0xFFC < (start [] 0xFFD).i.toNat := by decide

theorem witness_StoreRegisters : (start [] 0xFF0).i.toNat + (0xF : Reg).toNat < 4096 ∧
    (0xF : Reg).toNat ≤ (0xF : Reg).toNat ∧ 0xFEF < (start [] 0xFF0).i.toNat := by decide

theorem witness_LoadRegisters : (start [] 0xFFE).i.toNat + (1 : Reg).toNat < 4096 ∧ (1 : Reg).toNat ≤ (1 : Reg).toNat ∧
    (1 : Reg).toNat < (2 : Reg).toNat := by decide

/-- The first I out of range of each form. -/
theorem witness_MemoryRangeErrors :
    (0 < (2 : BitVec 4).toNat ∧ 4096 ≤ (start [] 0xFFF).i.toNat + (2 : BitVec 4).toNat - 1) ∧
    4096 ≤ (start [] 0xFFE).i.toNat + 2 ∧ 4096 ≤ (start [] 0xFF1).i.toNat + (0xF : Reg).toNat := by decide

theorem witness_InstructionsWriteOnlyTheirOwn : ∃ t, exec (.storeRegs 0xF) (start [] 0xFF0) = .next t := ⟨_, rfl⟩

/-- A flag-writing instruction, and one that is none, each completing. -/
theorem witness_FlagIsWrittenByFlagInstructionsOnly :
    (∃ t, exec (.addReg 0xF 1) State.reset = .next t ∧ t.status = .running ∧ (Instr.addReg 0xF 1).writesFlag = true) ∧
    (∃ t, exec (.orReg 0 1) State.reset = .next t ∧ t.status = .running ∧ (Instr.orReg 0 1).writesFlag = false ∧
      VF ∉ (Instr.orReg 0 1).regsWritten) :=
  ⟨⟨_, rfl, rfl, rfl⟩, _, rfl, rfl, rfl, by decide⟩

theorem witness_StoreIsSeenByNextFetch : 1 ≤ (1 : Reg).toNat ∧
    ({ start [] 0xFFE with pc := 0xFFC }).i.toNat = ({ start [] 0xFFE with pc := 0xFFC }).pc.toNat + 2 ∧
    ({ start [] 0xFFE with pc := 0xFFC }).i.toNat + (1 : Reg).toNat < 4096 := by decide

theorem witness_CallThenReturnComesBack : ({ State.reset with sp := 15 }).sp.val < 16 ∧
    14 < 16 ∧ 14 ≠ ({ State.reset with sp := 15 }).sp.val := by decide

theorem witness_SelfJumpChangesNothing : (placed 0x200 0x1200).Terminal ∧ (placed 0xFFE 0x1FFE).Terminal :=
  ⟨⟨by decide, by decide, by decide⟩, by decide, by decide, by decide⟩

theorem witness_CanonicalMemoriesAreEqualData :
    Memory.wf ((Memory.set [] 0x300 5).set 0x200 7) = true ∧ Memory.wf [(0x200, 7), (0x300, 5)] = true ∧
    ∀ a < 4096, ((Memory.set [] 0x300 5).set 0x200 7).get a = Memory.get [(0x200, 7), (0x300, 5)] a :=
  ⟨by decide, by decide, fun _ _ => rfl⟩

theorem witness_TickCountsDown : 0 < ({ State.reset with dt := 1 }).dt.toNat ∧ State.reset.dt.toNat = 0 ∧
    0 < ({ State.reset with st := 255 }).st.toNat ∧ State.reset.st.toNat = 0 := by decide

theorem witness_SoundLineFallsWithin255Ticks : 255 ≤ 255 ∧ ({ State.reset with st := 255 }).soundOn = true := by decide

/-- The longest ROM that fits, and the ends of each range of addresses under it and under a ROM of one byte. -/
theorem witness_ResetBuildsTheWholeState : (List.replicate 3584 (0xAB : Byte)).length ≤ 3584 ∧ 0x4F < 0x50 ∧
    (0x50 ≤ 0x50 ∧ 0x50 < 0x200) ∧ (0x50 ≤ 0x1FF ∧ 0x1FF < 0x200) ∧
    3583 < (List.replicate 3584 (0xAB : Byte)).length ∧ (0x200 + ([0xAB] : List Byte).length ≤ 0x201 ∧ 0x201 < 4096) ∧
    (0x200 + ([0xAB] : List Byte).length ≤ 4095 ∧ 4095 < 4096) := by
  rw [List.length_replicate]; decide

/-- T170: a halted core with a key pressed and registers and a pixel set. -/
def oldSession : State := { start [(3, 7)] 0x300 [(0x300, 9)] with
  sp := 3, dt := 4, st := 5, status := .halted .stackOverflow, keys := keysOf [7], fb := fbWith [(0, 0)], draws := 2,
  shiftSrc := .vx }

/-- T170: reset of a halted core. -/
theorem test_resetRom_halted : ∃ t, oldSession.resetRom [0x12, 0x00] = .next t ∧ t.status = .running ∧ t.pc = 0x200 ∧
    t.key 7 = false ∧ t.reg 3 = 0 ∧ t.sp = 0 ∧ lit t.fb = [] ∧ t.mem.getBytes 0x200 2 = [0x12, 0] ∧ t.mem.get 0x300 = 0 :=
  ⟨_, rfl, by decide, by decide, by decide, by decide, by decide, by decide, by decide, by decide⟩

theorem witness_LongRomIsALoadError : 3584 < (List.replicate 3585 (0xAB : Byte)).length := by
  rw [List.length_replicate]; decide

/-- A state of which a step raises PC to its greatest value, 0x10FE. -/
theorem witness_StepKeepsInvariant : ({ start [(0, 0xFF)] with mem := [(0x200, 0xBF), (0x201, 0xFF)] }).Inv ∧
    ∃ t, step { start [(0, 0xFF)] with mem := [(0x200, 0xBF), (0x201, 0xFF)] } = .next t ∧ t.pc = 0x10FE :=
  ⟨⟨by decide, by decide, by decide⟩, _, rfl, by decide⟩

theorem witness_SchedulesKeepInvariant : State.reset.Inv ∧
    ∃ t, runEvents [.keyWrite 15 true, .tick, .step, .reset [0x12, 0x00], .step] State.reset = .next t :=
  ⟨⟨by decide, by decide, by decide⟩, _, rfl⟩

end Sys2Proof.Tests
end

section
/-! The conditional skips of 41_control.md: what `State.skipIf` writes, and the statements on the immediate forms. -/

namespace Sys2Proof.Control

open Sys2Proof.Machine Sys2Proof.Claims

/-- The frame of every PC write: no register and no other item of state changes. -/
theorem setPc_onlyWrites (regs : List Reg) (parts : List Part) (s : State) (a : Word) :
    OnlyWrites regs parts s (s.setPc a) := by
  constructor <;> intros <;> rfl

/-- The reasoning rule of R104: an instruction that ends in `skipIf` of a Boolean test skips on what the test decides. -/
theorem skips_of_exec_eq_skipIf {i : Instr} {test : State → Bool} {c : State → Prop}
    (hexec : ∀ s, exec i s = .next (s.skipIf (test s))) (htest : ∀ s, test s = true ↔ c s) : Skips i c := by
  intro s
  refine ⟨s.setPc (if test s then s.pc + 4 else s.pc + 2), by rw [hexec, State.skipIf_eq], ?_, ?_,
    setPc_onlyWrites [] [] s _⟩
  · intro hc
    rw [State.setPc_pc, if_pos ((htest s).2 hc)]
  · intro hc
    rw [State.setPc_pc, if_neg (mt (htest s).1 hc)]

theorem exec_seImm (x : Reg) (nn : Byte) (s : State) :
    exec (.seImm x nn) s = .next (s.skipIf (s.reg x == nn)) := rfl

theorem exec_sneImm (x : Reg) (nn : Byte) (s : State) :
    exec (.sneImm x nn) s = .next (s.skipIf (s.reg x != nn)) := rfl

theorem seImm_skips (x : Reg) (nn : Byte) : Skips (.seImm x nn) (fun s => s.reg x = nn) :=
  skips_of_exec_eq_skipIf (exec_seImm x nn) fun _ => beq_iff_eq

theorem sneImm_skips (x : Reg) (nn : Byte) : Skips (.sneImm x nn) (fun s => s.reg x ≠ nn) :=
  skips_of_exec_eq_skipIf (exec_sneImm x nn) fun _ => bne_iff_ne

theorem decode_of_fieldF_eq_3 {op : Word} (h : fieldF op = 0x3) :
    decode op = .ok (.seImm (fieldX op) (fieldNN op)) := by
  rw [decode, h]; rfl

theorem decode_of_fieldF_eq_4 {op : Word} (h : fieldF op = 0x4) :
    decode op = .ok (.sneImm (fieldX op) (fieldNN op)) := by
  rw [decode, h]; rfl

/-- Settles O19: both forms decode by their family nibble alone and end in `skipIf` of the comparison with NN. -/
theorem skipOnImmediate : Obligations.SkipOnImmediate :=
  ⟨fun _ => decode_of_fieldF_eq_3, fun _ => decode_of_fieldF_eq_4,
    fun x nn => ⟨seImm_skips x nn, sneImm_skips x nn⟩⟩

end Sys2Proof.Control
end

section
/-! The immediate forms of 42_const_random.md: what an instruction that ends by writing one register does, and the
statements on `6XNN` and `7XNN`. -/

namespace Sys2Proof.ConstRandom

open Sys2Proof.Machine Sys2Proof.Claims

/-- The frame of one register write followed by `PC <- next`: only that register and PC may change. -/
theorem setReg_goNext_onlyWrites (parts : List Part) (s : State) (x : Reg) (b : Byte) :
    OnlyWrites [x] parts s (s.setReg x b).goNext where
  reg r hr := by
    have hne : r ≠ x := List.ne_of_not_mem_cons hr
    rw [State.goNext_reg, State.reg_setReg_ne s hne]
  i _ := rfl
  sp _ := rfl
  stack _ := rfl
  dt _ := rfl
  st _ := rfl
  status _ := rfl
  mem _ _ := rfl
  fb _ := rfl
  keys _ := rfl
  shiftSrc _ := rfl
  draws _ := rfl

/-- The reasoning rule of the instructions without a flag (R120, R121, R130): writing `value s` to VX and then going to
the next instruction is all that `LoadsReg` asks. -/
theorem loadsReg_of_exec_eq_setReg {i : Instr} {x : Reg} {value : State → Byte}
    (hexec : ∀ s, exec i s = .next (s.setReg x (value s)).goNext) : LoadsReg i x value := by
  intro s
  refine ⟨(s.setReg x (value s)).goNext, hexec s, ?_, ?_, setReg_goNext_onlyWrites [] s x _⟩
  · rw [State.goNext_reg, State.reg_setReg_same]
  · rw [State.goNext_pc, State.nextPc_eq, State.setReg_pc]

theorem toNat_addBytes (a b : Byte) : (addBytes a b).toNat = (a.toNat + b.toNat) % 256 :=
  BitVec.toNat_ofNat _ _

theorem exec_ldImm (x : Reg) (nn : Byte) (s : State) :
    exec (.ldImm x nn) s = .next (s.setReg x nn).goNext := rfl

theorem exec_addImm (x : Reg) (nn : Byte) (s : State) :
    exec (.addImm x nn) s = .next (s.setReg x (addBytes (s.reg x) nn)).goNext := rfl

theorem ldImm_loadsReg (x : Reg) (nn : Byte) : LoadsReg (.ldImm x nn) x (fun _ => nn) :=
  loadsReg_of_exec_eq_setReg (exec_ldImm x nn)

theorem addImm_loadsReg (x : Reg) (nn : Byte) :
    LoadsReg (.addImm x nn) x (fun s => addBytes (s.reg x) nn) :=
  loadsReg_of_exec_eq_setReg (exec_addImm x nn)

theorem decode_of_fieldF_eq_6 {op : Word} (h : fieldF op = 0x6) :
    decode op = .ok (.ldImm (fieldX op) (fieldNN op)) := by
  rw [decode, h]; rfl

theorem decode_of_fieldF_eq_7 {op : Word} (h : fieldF op = 0x7) :
    decode op = .ok (.addImm (fieldX op) (fieldNN op)) := by
  rw [decode, h]; rfl

/-- Settles O21: the form decodes by its family nibble alone and is one register write. -/
theorem loadImmediate : Obligations.LoadImmediate :=
  ⟨fun _ => decode_of_fieldF_eq_6, ldImm_loadsReg⟩

/-- Settles O22: the form is one register write of the wrapped sum, so its frame keeps VF unless VF is the
destination. -/
theorem addImmediateWithoutFlag : Obligations.AddImmediateWithoutFlag := by
  refine ⟨fun _ => decode_of_fieldF_eq_7, fun x nn s => ?_⟩
  obtain ⟨t, hexec, hreg, hpc, hframe⟩ := addImm_loadsReg x nn s
  have hsum : (t.reg x).toNat = ((s.reg x).toNat + nn.toNat) % 256 := by rw [hreg, toNat_addBytes]
  have hflag : x ≠ VF → t.reg VF = s.reg VF := fun hx =>
    hframe.reg VF (mt List.mem_singleton.1 hx.symm)
  exact ⟨t, hexec, hsum, hflag, hpc, hframe⟩

end Sys2Proof.ConstRandom
end

section
/-! The flag-writing forms of 43_alu.md: what `State.aluFlagged` writes, and the statement on `8XY4`. -/

namespace Sys2Proof.Alu

open Sys2Proof.Machine Sys2Proof.Claims

/-- The frame of R130 and R22: only VX, VF and PC may change. -/
theorem aluFlagged_onlyWrites (parts : List Part) (s : State) (x : Reg) (b : Byte) (c : Bool) :
    OnlyWrites [x, VF] parts s (s.aluFlagged x b c) where
  reg r hr := by
    obtain ⟨hx, hf⟩ : r ≠ x ∧ r ≠ VF := by simpa using hr
    exact State.aluFlagged_other s hx hf b c
  i _ := rfl
  sp _ := rfl
  stack _ := rfl
  dt _ := rfl
  st _ := rfl
  status _ := rfl
  mem _ _ := rfl
  fb _ := rfl
  keys _ := rfl
  shiftSrc _ := rfl
  draws _ := rfl

theorem aluFlagged_pc (s : State) (x : Reg) (b : Byte) (c : Bool) : (s.aluFlagged x b c).pc = s.pc + 2 := rfl

/-- The reasoning rule of R130 and R22: an instruction that ends in `aluFlagged` does all that `WritesFlagged` asks once
its result is `value s` modulo 256 and its Boolean decides `flag s`. VF is written last, so the flag stands when X is F. -/
theorem writesFlagged_of_exec_eq_aluFlagged {i : Instr} {x : Reg} {value : State → Int} {flag : State → Prop}
    {result : State → Byte} {test : State → Bool}
    (hexec : ∀ s, exec i s = .next (s.aluFlagged x (result s) (test s)))
    (hresult : ∀ s, ((result s).toNat : Int) = value s % 256) (htest : ∀ s, test s = true ↔ flag s) :
    WritesFlagged i x value flag := by
  intro s
  refine ⟨s.aluFlagged x (result s) (test s), hexec s, ?set, ?clear, ?result, aluFlagged_pc s x _ _,
    aluFlagged_onlyWrites [] s x _ _⟩
  case set =>
    intro hflag
    rw [State.aluFlagged_flag, (htest s).2 hflag]; rfl
  case clear =>
    intro hflag
    rw [State.aluFlagged_flag, Bool.eq_false_of_not_eq_true (mt (htest s).1 hflag)]; rfl
  case result =>
    intro hx
    rw [State.aluFlagged_result s hx, hresult s]

theorem carryOut_eq_true {a b : Byte} : carryOut a b = true ↔ 255 < a.toNat + b.toNat := decide_eq_true_iff

theorem exec_addReg (x y : Reg) (s : State) :
    exec (.addReg x y) s = .next (s.aluFlagged x (addBytes (s.reg x) (s.reg y)) (carryOut (s.reg x) (s.reg y))) := rfl

theorem addReg_writesFlagged (x y : Reg) :
    WritesFlagged (.addReg x y) x (fun s => (s.reg x).toNat + (s.reg y).toNat)
      (fun s => 255 < (s.reg x).toNat + (s.reg y).toNat) := by
  refine writesFlagged_of_exec_eq_aluFlagged (exec_addReg x y) (fun s => ?_) fun _ => carryOut_eq_true
  rw [ConstRandom.toNat_addBytes]
  push_cast
  rfl

theorem decode_of_fieldF_eq_8 {op : Word} (h : fieldF op = 0x8) :
    decode op = decodeAlu (fieldX op) (fieldY op) (fieldN op) := by
  rw [decode, h]; rfl

/-- Settles O25: the word decodes within the ALU family by its sub-opcode 4, and the form ends in `aluFlagged` of the
wrapped sum and its carry. -/
theorem addWithCarryFlag : Obligations.AddWithCarryFlag := by
  refine ⟨fun op hF hN => ?_, addReg_writesFlagged⟩
  rw [decode_of_fieldF_eq_8 hF, hN]; rfl

end Sys2Proof.Alu
end

section
/-! The index register of 46_index_memory.md: what an instruction that ends by writing I does, and the statement on
`ANNN`. -/

namespace Sys2Proof.IndexMemory

open Sys2Proof.Machine Sys2Proof.Claims

/-- The frame of one write of I followed by `PC <- next`: only I and PC may change. -/
theorem setI_goNext_onlyWrites (regs : List Reg) (s : State) (a : Word) :
    OnlyWrites regs [.i] s (s.setI a).goNext where
  reg _ _ := rfl
  i hi := absurd (List.mem_singleton.2 rfl) hi
  sp _ := rfl
  stack _ := rfl
  dt _ := rfl
  st _ := rfl
  status _ := rfl
  mem _ _ := rfl
  fb _ := rfl
  keys _ := rfl
  shiftSrc _ := rfl
  draws _ := rfl

theorem setI_goNext_pc (s : State) (a : Word) : (s.setI a).goNext.pc = s.pc + 2 := by
  rw [State.goNext_pc, State.nextPc_eq, State.setI_pc]

/-- Widening NNN keeps its number, so bits 15 to 12 of the word are zero (R170). -/
theorem toNat_zextImm (nnn : BitVec 12) : (zextImm nnn).toNat = nnn.toNat :=
  BitVec.toNat_setWidth_of_le (by decide)

theorem exec_ldI (nnn : BitVec 12) (s : State) : exec (.ldI nnn) s = .next (s.setI (zextImm nnn)).goNext := rfl

theorem decode_of_fieldF_eq_A {op : Word} (h : fieldF op = 0xA) : decode op = .ok (.ldI (fieldNNN op)) := by
  rw [decode, h]; rfl

/-- Settles O38: the form decodes by its family nibble alone and is one write of I with the widened NNN. -/
theorem loadIndex : Obligations.LoadIndex := by
  refine ⟨fun _ => decode_of_fieldF_eq_A, fun nnn s => ?_⟩
  have hi : (s.setI (zextImm nnn)).goNext.i.toNat = nnn.toNat := by
    rw [State.goNext_i, State.setI_i, toNat_zextImm]
  exact ⟨_, exec_ldI nnn s, hi, setI_goNext_pc s _, setI_goNext_onlyWrites [] s _⟩

end Sys2Proof.IndexMemory
end

section
/-! The encoding of 30_encoding.md as a whole: the decoder family by family, its agreement with the encoder and with the
opcode table, and the list of unknown words. -/

namespace Sys2Proof.Encoding

open Sys2Proof.Machine

/-! ### The decoder, one family at a time (R74) -/

/-- The sixteen families. -/
theorem nibble_cases (f : BitVec 4) : f = 0x0 ∨ f = 0x1 ∨ f = 0x2 ∨ f = 0x3 ∨ f = 0x4 ∨ f = 0x5 ∨ f = 0x6 ∨ f = 0x7 ∨
    f = 0x8 ∨ f = 0x9 ∨ f = 0xA ∨ f = 0xB ∨ f = 0xC ∨ f = 0xD ∨ f = 0xE ∨ f = 0xF := by
  revert f; decide

section
variable {op : Word}

theorem decode_of_fieldF_eq_0 (h : fieldF op = 0x0) : decode op =
    if op = 0x00E0 then .ok .cls else if op = 0x00EE then .ok .ret else .error .unknownInstruction := by
  rw [decode, h]; rfl

theorem decode_of_fieldF_eq_1 (h : fieldF op = 0x1) : decode op = .ok (.jp (fieldNNN op)) := by
  rw [decode, h]; rfl

theorem decode_of_fieldF_eq_2 (h : fieldF op = 0x2) : decode op = .ok (.call (fieldNNN op)) := by
  rw [decode, h]; rfl

theorem decode_of_fieldF_eq_5 (h : fieldF op = 0x5) : decode op =
    if fieldN op = 0 then .ok (.seReg (fieldX op) (fieldY op)) else .error .unknownInstruction := by
  rw [decode, h]; rfl

theorem decode_of_fieldF_eq_9 (h : fieldF op = 0x9) : decode op =
    if fieldN op = 0 then .ok (.sneReg (fieldX op) (fieldY op)) else .error .unknownInstruction := by
  rw [decode, h]; rfl

theorem decode_of_fieldF_eq_B (h : fieldF op = 0xB) : decode op = .ok (.jpV0 (fieldNNN op)) := by
  rw [decode, h]; rfl

theorem decode_of_fieldF_eq_C (h : fieldF op = 0xC) : decode op = .ok (.rnd (fieldX op) (fieldNN op)) := by
  rw [decode, h]; rfl

theorem decode_of_fieldF_eq_D (h : fieldF op = 0xD) :
    decode op = .ok (.drw (fieldX op) (fieldY op) (fieldN op)) := by
  rw [decode, h]; rfl

theorem decode_of_fieldF_eq_E (h : fieldF op = 0xE) : decode op =
    if fieldNN op = 0x9E then .ok (.skp (fieldX op))
    else if fieldNN op = 0xA1 then .ok (.sknp (fieldX op)) else .error .unknownInstruction := by
  rw [decode, h]; rfl

theorem decode_of_fieldF_eq_F (h : fieldF op = 0xF) : decode op = decodeMisc (fieldX op) (fieldNN op) := by
  rw [decode, h]; rfl

end

/-! ### Round trips -/

theorem decode_packXYN_8 (x y n : BitVec 4) : decode (packXYN 0x8 x y n) = decodeAlu x y n := by
  rw [Alu.decode_of_fieldF_eq_8 (fieldF_packXYN ..), fieldX_packXYN, fieldY_packXYN, fieldN_packXYN]

theorem decode_packXNN_F (x : Reg) (nn : Byte) : decode (packXNN 0xF x nn) = decodeMisc x nn := by
  rw [decode_of_fieldF_eq_F (fieldF_packXNN ..), fieldX_packXNN, fieldNN_packXNN]

/-- Settles O1: the word of each format decodes within its family, and its fields are the operands that were packed. -/
theorem decodeOfEncode : Obligations.DecodeOfEncode := by
  intro i
  cases i with
  | cls => exact decode_word_cls
  | ret => exact decode_word_ret
  | jp nnn => simp [encode, decode_of_fieldF_eq_1]
  | call nnn => simp [encode, decode_of_fieldF_eq_2]
  | seImm x nn => simp [encode, Control.decode_of_fieldF_eq_3]
  | sneImm x nn => simp [encode, Control.decode_of_fieldF_eq_4]
  | seReg x y => simp [encode, decode_of_fieldF_eq_5]
  | ldImm x nn => simp [encode, ConstRandom.decode_of_fieldF_eq_6]
  | addImm x nn => simp [encode, ConstRandom.decode_of_fieldF_eq_7]
  | sneReg x y => simp [encode, decode_of_fieldF_eq_9]
  | ldI nnn => simp [encode, IndexMemory.decode_of_fieldF_eq_A]
  | jpV0 nnn => simp [encode, decode_of_fieldF_eq_B]
  | rnd x nn => simp [encode, decode_of_fieldF_eq_C]
  | drw x y n => simp [encode, decode_of_fieldF_eq_D]
  | skp x | sknp x => simp [encode, decode_of_fieldF_eq_E]
  | ldReg x y | orReg x y | andReg x y | xorReg x y | addReg x y | subReg x y | shr x y | subn x y | shl x y =>
    exact decode_packXYN_8 x y _
  | readDelay x | waitKey x | setDelay x | setSound x | addI x | ldFont x | storeBcd x | storeRegs x | loadRegs x =>
    exact decode_packXNN_F x _

theorem encode_of_decodeAlu {x y n : BitVec 4} {i : Instr} (h : decodeAlu x y n = .ok i) :
    encode i = packXYN 0x8 x y n := by
  unfold decodeAlu at h
  split at h <;> cases h <;> rfl

theorem encode_of_decodeMisc {x : Reg} {nn : Byte} {i : Instr} (h : decodeMisc x nn = .ok i) :
    encode i = packXNN 0xF x nn := by
  unfold decodeMisc at h
  split at h <;> cases h <;> rfl

theorem packXYN_of_fieldF {op : Word} {f : BitVec 4} (h : fieldF op = f) :
    packXYN f (fieldX op) (fieldY op) (fieldN op) = op := h ▸ packXYN_fields op

theorem packXNN_of_fieldF {op : Word} {f : BitVec 4} (h : fieldF op = f) :
    packXNN f (fieldX op) (fieldNN op) = op := h ▸ packXNN_fields op

theorem packNNN_of_fieldF {op : Word} {f : BitVec 4} (h : fieldF op = f) :
    packNNN f (fieldNNN op) = op := h ▸ packNNN_fields op

/-- Settles O2: within each family the word is packed again from the fields the decoder read, and the fixed bits are
those it tested. -/
theorem encodeOfDecode : Obligations.EncodeOfDecode := by
  intro op i h
  rcases nibble_cases (fieldF op) with hF | hF | hF | hF | hF | hF | hF | hF | hF | hF | hF | hF | hF | hF | hF | hF
  · rw [decode_of_fieldF_eq_0 hF] at h
    split_ifs at h with hop hop' <;> cases h
    · exact hop.symm
    · exact hop'.symm
  · rw [decode_of_fieldF_eq_1 hF] at h; cases h
    exact packNNN_of_fieldF hF
  · rw [decode_of_fieldF_eq_2 hF] at h; cases h
    exact packNNN_of_fieldF hF
  · rw [Control.decode_of_fieldF_eq_3 hF] at h; cases h
    exact packXNN_of_fieldF hF
  · rw [Control.decode_of_fieldF_eq_4 hF] at h; cases h
    exact packXNN_of_fieldF hF
  · rw [decode_of_fieldF_eq_5 hF] at h
    split_ifs at h with hN; cases h
    rw [encode, ← hN, packXYN_of_fieldF hF]
  · rw [ConstRandom.decode_of_fieldF_eq_6 hF] at h; cases h
    exact packXNN_of_fieldF hF
  · rw [ConstRandom.decode_of_fieldF_eq_7 hF] at h; cases h
    exact packXNN_of_fieldF hF
  · rw [Alu.decode_of_fieldF_eq_8 hF] at h
    rw [encode_of_decodeAlu h, packXYN_of_fieldF hF]
  · rw [decode_of_fieldF_eq_9 hF] at h
    split_ifs at h with hN; cases h
    rw [encode, ← hN, packXYN_of_fieldF hF]
  · rw [IndexMemory.decode_of_fieldF_eq_A hF] at h; cases h
    exact packNNN_of_fieldF hF
  · rw [decode_of_fieldF_eq_B hF] at h; cases h
    exact packNNN_of_fieldF hF
  · rw [decode_of_fieldF_eq_C hF] at h; cases h
    exact packXNN_of_fieldF hF
  · rw [decode_of_fieldF_eq_D hF] at h; cases h
    exact packXYN_of_fieldF hF
  · rw [decode_of_fieldF_eq_E hF] at h
    split_ifs at h with hNN hNN' <;> cases h
    · rw [encode, ← hNN, packXNN_of_fieldF hF]
    · rw [encode, ← hNN', packXNN_of_fieldF hF]
  · rw [decode_of_fieldF_eq_F hF] at h
    rw [encode_of_decodeMisc h, packXNN_of_fieldF hF]

/-! ### The unknown words (R78) -/

theorem decodeAlu_eq_error {x y n : BitVec 4} : decodeAlu x y n = .error .unknownInstruction ↔
    n ∈ [0x8#4, 0x9#4, 0xA#4, 0xB#4, 0xC#4, 0xD#4, 0xF#4] := by
  rcases nibble_cases n with
    rfl | rfl | rfl | rfl | rfl | rfl | rfl | rfl | rfl | rfl | rfl | rfl | rfl | rfl | rfl | rfl <;> simp [decodeAlu]

theorem decodeMisc_eq_error {x : Reg} {nn : Byte} : decodeMisc x nn = .error .unknownInstruction ↔
    nn ∉ [0x07#8, 0x0A#8, 0x15#8, 0x18#8, 0x1E#8, 0x29#8, 0x33#8, 0x55#8, 0x65#8] := by
  unfold decodeMisc
  split <;> simp_all

/-- Settles O4: in each family the decoder's error branch is the list's line for that family; the other families have
none. -/
theorem unknownWordsAreExactlyThese : Obligations.UnknownWordsAreExactlyThese := by
  intro op
  rcases nibble_cases (fieldF op) with hF | hF | hF | hF | hF | hF | hF | hF | hF | hF | hF | hF | hF | hF | hF | hF
  · simp [decode_of_fieldF_eq_0 hF, hF]; split_ifs <;> simp_all
  · simp [decode_of_fieldF_eq_1 hF, hF]
  · simp [decode_of_fieldF_eq_2 hF, hF]
  · simp [Control.decode_of_fieldF_eq_3 hF, hF]
  · simp [Control.decode_of_fieldF_eq_4 hF, hF]
  · simp [decode_of_fieldF_eq_5 hF, hF]
  · simp [ConstRandom.decode_of_fieldF_eq_6 hF, hF]
  · simp [ConstRandom.decode_of_fieldF_eq_7 hF, hF]
  · simp [Alu.decode_of_fieldF_eq_8 hF, hF, decodeAlu_eq_error]
  · simp [decode_of_fieldF_eq_9 hF, hF]
  · simp [IndexMemory.decode_of_fieldF_eq_A hF, hF]
  · simp [decode_of_fieldF_eq_B hF, hF]
  · simp [decode_of_fieldF_eq_C hF, hF]
  · simp [decode_of_fieldF_eq_D hF, hF]
  · simp [decode_of_fieldF_eq_E hF, hF]; split_ifs <;> simp_all
  · simp [decode_of_fieldF_eq_F hF, hF, decodeMisc_eq_error]

/-- Settles O5: each word is evaluated by the decoder. -/
theorem sampleWordsDecode : Obligations.SampleWordsDecode := by
  unfold Obligations.SampleWordsDecode
  decide

end Sys2Proof.Encoding
end

section
/-! The opcode table of 30_encoding.md R76 against the decoder: what each mask of the table says about the fields. -/

namespace Sys2Proof.OpcodeTable

open Sys2Proof.Machine Sys2Proof.Encoding

/-! ### Masked words, field by field -/

section
variable (a b : Word)

theorem fieldF_and : fieldF (a &&& b) = fieldF a &&& fieldF b := BitVec.extractLsb'_and
theorem fieldX_and : fieldX (a &&& b) = fieldX a &&& fieldX b := BitVec.extractLsb'_and
theorem fieldY_and : fieldY (a &&& b) = fieldY a &&& fieldY b := BitVec.extractLsb'_and
theorem fieldN_and : fieldN (a &&& b) = fieldN a &&& fieldN b := BitVec.extractLsb'_and
theorem fieldNN_and : fieldNN (a &&& b) = fieldNN a &&& fieldNN b := BitVec.extractLsb'_and
theorem fieldNNN_and : fieldNNN (a &&& b) = fieldNNN a &&& fieldNNN b := BitVec.extractLsb'_and

end

theorem eq_packXYN_iff {w : Word} {f x y n : BitVec 4} :
    w = packXYN f x y n ↔ fieldF w = f ∧ fieldX w = x ∧ fieldY w = y ∧ fieldN w = n := by
  constructor
  · rintro rfl; simp
  · rintro ⟨rfl, rfl, rfl, rfl⟩; exact (packXYN_fields w).symm

theorem eq_packXNN_iff {w : Word} {f x : BitVec 4} {nn : Byte} :
    w = packXNN f x nn ↔ fieldF w = f ∧ fieldX w = x ∧ fieldNN w = nn := by
  constructor
  · rintro rfl; simp
  · rintro ⟨rfl, rfl, rfl⟩; exact (packXNN_fields w).symm

theorem eq_packNNN_iff {w : Word} {f : BitVec 4} {nnn : BitVec 12} :
    w = packNNN f nnn ↔ fieldF w = f ∧ fieldNNN w = nnn := by
  constructor
  · rintro rfl; simp
  · rintro ⟨rfl, rfl⟩; exact (packNNN_fields w).symm

/-! ### The rows by format -/

/-- A row that fixes the family nibble only. -/
def familyRow (m : String) (f : BitVec 4) : OpcodeRow := ⟨m, packNNN f 0, packNNN 0xF 0⟩

/-- A row that fixes the family nibble and `N`. -/
def nibbleRow (m : String) (f n : BitVec 4) : OpcodeRow := ⟨m, packXYN f 0 0 n, packXYN 0xF 0 0 0xF⟩

/-- A row that fixes the family nibble and `NN`. -/
def byteRow (m : String) (f : BitVec 4) (nn : Byte) : OpcodeRow := ⟨m, packXNN f 0 nn, packXNN 0xF 0 0xFF⟩

/-- A row that fixes the whole word. -/
def wordRow (m : String) (w : Word) : OpcodeRow := ⟨m, w, 0xFFFF⟩

theorem and_F (n : BitVec 4) : n &&& 0xF#4 = n := BitVec.and_allOnes

theorem and_FF (nn : Byte) : nn &&& 0xFF#8 = nn := BitVec.and_allOnes

theorem and_FFFF (w : Word) : w &&& 0xFFFF = w := BitVec.and_allOnes

theorem selects_iff {r : OpcodeRow} {op : Word} : r.selects op = true ↔ op &&& r.mask = r.bits := beq_iff_eq

theorem familyRow_selects (m : String) (f : BitVec 4) (op : Word) :
    (familyRow m f).selects op = decide (fieldF op = f) := by
  rw [Bool.eq_iff_iff, selects_iff, familyRow, eq_packNNN_iff, fieldF_and, fieldNNN_and]
  simp [and_F]

theorem nibbleRow_selects (m : String) (f n : BitVec 4) (op : Word) :
    (nibbleRow m f n).selects op = decide (fieldF op = f ∧ fieldN op = n) := by
  rw [Bool.eq_iff_iff, selects_iff, nibbleRow, eq_packXYN_iff, fieldF_and, fieldX_and, fieldY_and, fieldN_and]
  simp [and_F]

theorem byteRow_selects (m : String) (f : BitVec 4) (nn : Byte) (op : Word) :
    (byteRow m f nn).selects op = decide (fieldF op = f ∧ fieldNN op = nn) := by
  rw [Bool.eq_iff_iff, selects_iff, byteRow, eq_packXNN_iff, fieldF_and, fieldX_and, fieldNN_and]
  simp [and_F, and_FF]

theorem wordRow_selects (m : String) (w op : Word) : (wordRow m w).selects op = decide (op = w) := by
  rw [Bool.eq_iff_iff, selects_iff, wordRow, and_FFFF, decide_eq_true_iff]

/-! ### The rows by family -/

/-- The rows of one family nibble. -/
def familyRows (f : BitVec 4) : List OpcodeRow := opcodeTable.filter fun r => fieldF r.bits = f

theorem opcodeTable_masks_fieldF : ∀ r ∈ opcodeTable, fieldF r.mask = 0xF := by decide

/-- Every row fixes the family nibble, so it selects words of its own family only. -/
theorem fieldF_bits_of_selects {r : OpcodeRow} {op : Word} (hr : r ∈ opcodeTable) (h : r.selects op = true) :
    fieldF r.bits = fieldF op := by
  rw [← selects_iff.1 h, fieldF_and, opcodeTable_masks_fieldF r hr]
  exact and_F _

theorem find?_familyRows (op : Word) :
    (opcodeTable.find? fun r => r.selects op) = (familyRows (fieldF op)).find? fun r => r.selects op := by
  rw [familyRows, List.find?_filter]
  refine List.find?_congr fun r hr => ?_
  by_cases h : r.selects op = true
  · simp [h, fieldF_bits_of_selects hr h]
  · simp [h]

/-- The mnemonic of what the decoder reads. -/
def decodedMnemonic (op : Word) : Option String := (decode op).toOption.map Instr.mnemonic

/-- The mnemonic of the first of `rows` that selects the word. -/
def rowMnemonic (rows : List OpcodeRow) (op : Word) : Option String :=
  (rows.find? fun r => r.selects op).map OpcodeRow.mnemonic

section
variable {op : Word}

theorem rowMnemonic_cons (r : OpcodeRow) (rows : List OpcodeRow) :
    rowMnemonic (r :: rows) op = if r.selects op = true then some r.mnemonic else rowMnemonic rows op := by
  unfold rowMnemonic
  cases h : r.selects op <;> simp [h]

/-- A family of one row that fixes the family nibble only. -/
theorem mnemonic_agrees_of_familyRow {f : BitVec 4} {i : Instr} (hF : fieldF op = f) (hd : decode op = .ok i) :
    decodedMnemonic op = rowMnemonic [familyRow i.mnemonic f] op := by
  rw [decodedMnemonic, hd, rowMnemonic_cons, familyRow_selects, if_pos (decide_eq_true hF)]; rfl

theorem mnemonic_agrees_of_fieldF_eq_8 (hF : fieldF op = 0x8) :
    decodedMnemonic op = rowMnemonic (familyRows 0x8) op := by
  show _ = rowMnemonic [nibbleRow "8XY0" 0x8 0x0, nibbleRow "8XY1" 0x8 0x1, nibbleRow "8XY2" 0x8 0x2,
    nibbleRow "8XY3" 0x8 0x3, nibbleRow "8XY4" 0x8 0x4, nibbleRow "8XY5" 0x8 0x5, nibbleRow "8XY6" 0x8 0x6,
    nibbleRow "8XY7" 0x8 0x7, nibbleRow "8XYE" 0x8 0xE] op
  rw [decodedMnemonic, Alu.decode_of_fieldF_eq_8 hF]
  simp only [rowMnemonic_cons, nibbleRow_selects, decide_eq_true_eq, hF, true_and]
  generalize fieldN op = n
  rcases nibble_cases n with
    rfl | rfl | rfl | rfl | rfl | rfl | rfl | rfl | rfl | rfl | rfl | rfl | rfl | rfl | rfl | rfl <;> rfl

theorem mnemonic_agrees_of_fieldF_eq_F (hF : fieldF op = 0xF) :
    decodedMnemonic op = rowMnemonic (familyRows 0xF) op := by
  show _ = rowMnemonic [byteRow "FX07" 0xF 0x07, byteRow "FX0A" 0xF 0x0A, byteRow "FX15" 0xF 0x15,
    byteRow "FX18" 0xF 0x18, byteRow "FX1E" 0xF 0x1E, byteRow "FX29" 0xF 0x29, byteRow "FX33" 0xF 0x33,
    byteRow "FX55" 0xF 0x55, byteRow "FX65" 0xF 0x65] op
  rw [decodedMnemonic, decode_of_fieldF_eq_F hF]
  simp only [rowMnemonic_cons, byteRow_selects, decide_eq_true_eq, hF, true_and]
  by_cases hNN : fieldNN op ∈ [0x07#8, 0x0A#8, 0x15#8, 0x18#8, 0x1E#8, 0x29#8, 0x33#8, 0x55#8, 0x65#8]
  · generalize fieldNN op = nn at hNN
    simp only [List.mem_cons, List.not_mem_nil, or_false] at hNN
    rcases hNN with rfl | rfl | rfl | rfl | rfl | rfl | rfl | rfl | rfl <;> rfl
  · rw [decodeMisc_eq_error.2 hNN]
    simp only [List.mem_cons, List.not_mem_nil, or_false, not_or] at hNN
    simp only [BitVec.ofNat_eq_ofNat, hNN, if_false]
    rfl

/-- The decoder and the rows of the word's family give the same mnemonic, family by family. -/
theorem mnemonic_agrees (op : Word) : decodedMnemonic op = rowMnemonic (familyRows (fieldF op)) op := by
  rcases nibble_cases (fieldF op) with hF | hF | hF | hF | hF | hF | hF | hF | hF | hF | hF | hF | hF | hF | hF | hF <;>
    rw [hF]
  · show _ = rowMnemonic [wordRow "00E0" 0x00E0, wordRow "00EE" 0x00EE] op
    rw [decodedMnemonic, decode_of_fieldF_eq_0 hF]
    simp only [rowMnemonic_cons, wordRow_selects, decide_eq_true_eq]
    split_ifs <;> rfl
  · exact mnemonic_agrees_of_familyRow hF (decode_of_fieldF_eq_1 hF)
  · exact mnemonic_agrees_of_familyRow hF (decode_of_fieldF_eq_2 hF)
  · exact mnemonic_agrees_of_familyRow hF (Control.decode_of_fieldF_eq_3 hF)
  · exact mnemonic_agrees_of_familyRow hF (Control.decode_of_fieldF_eq_4 hF)
  · show _ = rowMnemonic [nibbleRow "5XY0" 0x5 0x0] op
    rw [decodedMnemonic, decode_of_fieldF_eq_5 hF]
    simp only [rowMnemonic_cons, nibbleRow_selects, decide_eq_true_eq, hF, true_and]
    split_ifs <;> rfl
  · exact mnemonic_agrees_of_familyRow hF (ConstRandom.decode_of_fieldF_eq_6 hF)
  · exact mnemonic_agrees_of_familyRow hF (ConstRandom.decode_of_fieldF_eq_7 hF)
  · exact mnemonic_agrees_of_fieldF_eq_8 hF
  · show _ = rowMnemonic [nibbleRow "9XY0" 0x9 0x0] op
    rw [decodedMnemonic, decode_of_fieldF_eq_9 hF]
    simp only [rowMnemonic_cons, nibbleRow_selects, decide_eq_true_eq, hF, true_and]
    split_ifs <;> rfl
  · exact mnemonic_agrees_of_familyRow hF (IndexMemory.decode_of_fieldF_eq_A hF)
  · exact mnemonic_agrees_of_familyRow hF (decode_of_fieldF_eq_B hF)
  · exact mnemonic_agrees_of_familyRow hF (decode_of_fieldF_eq_C hF)
  · exact mnemonic_agrees_of_familyRow hF (decode_of_fieldF_eq_D hF)
  · show _ = rowMnemonic [byteRow "EX9E" 0xE 0x9E, byteRow "EXA1" 0xE 0xA1] op
    rw [decodedMnemonic, decode_of_fieldF_eq_E hF]
    simp only [rowMnemonic_cons, byteRow_selects, decide_eq_true_eq, hF, true_and]
    split_ifs <;> rfl
  · exact mnemonic_agrees_of_fieldF_eq_F hF

end

/-! ### The rows are disjoint -/

/-- Two rows whose fixed bits differ where both masks fix them select no common word. -/
theorem not_selects_both {r q : OpcodeRow} (h : r.bits &&& q.mask ≠ q.bits &&& r.mask) (op : Word) :
    ¬ (r.selects op = true ∧ q.selects op = true) := by
  rintro ⟨hr, hq⟩
  apply h
  rw [← selects_iff.1 hr, ← selects_iff.1 hq, BitVec.and_assoc, BitVec.and_assoc, BitVec.and_comm r.mask]

theorem opcodeTable_bits_differ :
    opcodeTable.Pairwise fun r q => r.bits &&& q.mask ≠ q.bits &&& r.mask := by decide

/-- Settles O3: a word meets only the rows of its family, and within the family the decoder tests the bits the rows
fix; two rows always differ in a bit that both fix. -/
theorem decodeAgreesWithOpcodeTable : Obligations.DecodeAgreesWithOpcodeTable := by
  refine ⟨fun op => ?_, opcodeTable_bits_differ.imp not_selects_both⟩
  rw [find?_familyRows]
  exact mnemonic_agrees op

end Sys2Proof.OpcodeTable
end

section
/-! Frames: the rules of `OnlyWrites`, one for each operation on the state, so that the frame of an instruction is read
off the operations it is made of. -/

namespace Sys2Proof.Machine.OnlyWrites

variable {regs : List Reg} {parts : List Part} {s t u : State}

theorem refl (regs : List Reg) (parts : List Part) (s : State) : OnlyWrites regs parts s s := by
  constructor <;> intros <;> rfl

theorem trans (h : OnlyWrites regs parts s t) (h' : OnlyWrites regs parts t u) : OnlyWrites regs parts s u where
  reg r hr := (h'.reg r hr).trans (h.reg r hr)
  i hi := (h'.i hi).trans (h.i hi)
  sp hp := (h'.sp hp).trans (h.sp hp)
  stack hp := (h'.stack hp).trans (h.stack hp)
  dt hp := (h'.dt hp).trans (h.dt hp)
  st hp := (h'.st hp).trans (h.st hp)
  status hp := (h'.status hp).trans (h.status hp)
  mem hp a := (h'.mem hp a).trans (h.mem hp a)
  fb hp := (h'.fb hp).trans (h.fb hp)
  keys hp := (h'.keys hp).trans (h.keys hp)
  shiftSrc hp := (h'.shiftSrc hp).trans (h.shiftSrc hp)
  draws hp := (h'.draws hp).trans (h.draws hp)

/-! ### One rule for each operation (Machine/Ops.lean) -/

theorem setPc (h : OnlyWrites regs parts s t) (a : Word) : OnlyWrites regs parts s (t.setPc a) :=
  h.trans (Control.setPc_onlyWrites regs parts t a)

theorem goNext (h : OnlyWrites regs parts s t) : OnlyWrites regs parts s t.goNext := h.setPc t.nextPc

theorem setReg (h : OnlyWrites regs parts s t) {x : Reg} (hx : x ∈ regs) (b : Byte) :
    OnlyWrites regs parts s (t.setReg x b) :=
  { h with
    reg := fun r hr => by
      have hne : r ≠ x := fun e => hr (e ▸ hx)
      rw [State.reg_setReg_ne t hne, h.reg r hr] }

theorem setI (h : OnlyWrites regs parts s t) (hp : Part.i ∈ parts) (a : Word) : OnlyWrites regs parts s (t.setI a) :=
  { h with i := fun hn => absurd hp hn }

theorem setDt (h : OnlyWrites regs parts s t) (hp : Part.dt ∈ parts) (b : Byte) : OnlyWrites regs parts s (t.setDt b) :=
  { h with dt := fun hn => absurd hp hn }

theorem setSt (h : OnlyWrites regs parts s t) (hp : Part.st ∈ parts) (b : Byte) : OnlyWrites regs parts s (t.setSt b) :=
  { h with st := fun hn => absurd hp hn }

theorem setStatus (h : OnlyWrites regs parts s t) (hp : Part.status ∈ parts) (c : Status) :
    OnlyWrites regs parts s (t.setStatus c) :=
  { h with status := fun hn => absurd hp hn }

theorem setMem (h : OnlyWrites regs parts s t) (hp : Part.mem ∈ parts) (m : Memory) :
    OnlyWrites regs parts s (t.setMem m) :=
  { h with mem := fun hn => absurd hp hn }

theorem setFb (h : OnlyWrites regs parts s t) (hp : Part.fb ∈ parts) (f : Framebuffer) :
    OnlyWrites regs parts s (t.setFb f) :=
  { h with fb := fun hn => absurd hp hn }

theorem countDraw (h : OnlyWrites regs parts s t) (hp : Part.draws ∈ parts) : OnlyWrites regs parts s t.countDraw :=
  { h with draws := fun hn => absurd hp hn }

theorem keyWrite (h : OnlyWrites regs parts s t) (hp : Part.keys ∈ parts) (k : Fin 16) (b : Bool) :
    OnlyWrites regs parts s (t.keyWrite k b) :=
  { h with keys := fun hn => absurd hp hn }

/-- The frame of a pop: SP only (R29, D27). -/
theorem pop {a : Word} (h : OnlyWrites regs parts s t) (hp : Part.sp ∈ parts) (hpop : t.pop = some (a, u)) :
    OnlyWrites regs parts s u := by
  obtain ⟨_, -, rfl⟩ := State.pop_eq_some.1 hpop
  exact { h with sp := fun hn => absurd hp hn }

/-- The frame of a push: SP and the stack (R29). -/
theorem push {a : Word} (h : OnlyWrites regs parts s t) (hp : Part.sp ∈ parts) (hk : Part.stack ∈ parts)
    (hpush : t.push a = some u) : OnlyWrites regs parts s u := by
  obtain ⟨_, rfl⟩ := State.push_eq_some.1 hpush
  exact { h with sp := fun hn => absurd hp hn, stack := fun hn => absurd hk hn }

/-- The frame of a load of registers (R176): the registers of the run. -/
theorem setRegsFrom (h : OnlyWrites regs parts s t) (k : Nat) (bs : List Byte)
    (hbs : ∀ j < bs.length, BitVec.ofNat 4 (k + j) ∈ regs) : OnlyWrites regs parts s (t.setRegsFrom k bs) := by
  induction bs generalizing t k with
  | nil => exact h
  | cons b bs ih =>
    refine ih (h.setReg (hbs 0 (Nat.zero_lt_succ _)) b) (k + 1) fun j hj => ?_
    rw [Nat.add_assoc, Nat.add_comm 1 j]
    exact hbs (j + 1) (Nat.succ_lt_succ hj)

theorem mono {parts' : List Part} (h : OnlyWrites regs parts s t) (hp : parts ⊆ parts') :
    OnlyWrites regs parts' s t where
  reg := h.reg
  i hn := h.i fun hm => hn (hp hm)
  sp hn := h.sp fun hm => hn (hp hm)
  stack hn := h.stack fun hm => hn (hp hm)
  dt hn := h.dt fun hm => hn (hp hm)
  st hn := h.st fun hm => hn (hp hm)
  status hn := h.status fun hm => hn (hp hm)
  mem hn := h.mem fun hm => hn (hp hm)
  fb hn := h.fb fun hm => hn (hp hm)
  keys hn := h.keys fun hm => hn (hp hm)
  shiftSrc hn := h.shiftSrc fun hm => hn (hp hm)
  draws hn := h.draws fun hm => hn (hp hm)

/-- An SP that is back at its value is not written. -/
theorem drop_sp (h : OnlyWrites regs (.sp :: parts) s t) (hsp : t.sp = s.sp) : OnlyWrites regs parts s t where
  reg := h.reg
  i hp := h.i (by simp [hp])
  sp _ := hsp
  stack hp := h.stack (by simp [hp])
  dt hp := h.dt (by simp [hp])
  st hp := h.st (by simp [hp])
  status hp := h.status (by simp [hp])
  mem hp := h.mem (by simp [hp])
  fb hp := h.fb (by simp [hp])
  keys hp := h.keys (by simp [hp])
  shiftSrc hp := h.shiftSrc (by simp [hp])
  draws hp := h.draws (by simp [hp])

end Sys2Proof.Machine.OnlyWrites

namespace Sys2Proof

open Sys2Proof.Machine

theorem ofNat_mem_regsUpTo {x : Reg} {k : Nat} (hk : k < x.toNat + 1) : BitVec.ofNat 4 k ∈ regsUpTo x :=
  List.mem_map_of_mem (List.mem_range.2 hk)

/-- The frame of a load of V0 to VX from memory (R176): these registers only. -/
theorem loadUpTo_onlyWrites (parts : List Part) (s : State) (x : Reg) (a : Nat) :
    OnlyWrites (regsUpTo x) parts s (s.setRegsFrom 0 (s.mem.getBytes a (x.toNat + 1))) := by
  refine (OnlyWrites.refl _ _ s).setRegsFrom 0 _ fun j hj => ?_
  rw [Memory.length_getBytes] at hj
  rw [Nat.zero_add]
  exact ofNat_mem_regsUpTo hj

end Sys2Proof
end

section
/-! The execute phase as a whole: for each instruction, when it raises an error, and what it guarantees when it
completes. The statements on errors, frames, the flag and the invariant are read off this. -/

namespace Sys2Proof.Execute

open Sys2Proof.Machine

/-- The errors of the execute phase and when each is raised (R202 to R205; R151 and R173 for the ranges). -/
inductive Raises (s : State) : Instr → Cause → Prop where
  | ret (h : s.sp.val = 0) : Raises s .ret .stackUnderflow
  | call (nnn : BitVec 12) (h : s.sp.val = 16) : Raises s (.call nnn) .stackOverflow
  | drw (x y : Reg) (n : BitVec 4) (h : ¬ (n.toNat = 0 ∨ s.i.toNat + n.toNat ≤ 4096)) :
      Raises s (.drw x y n) .addressOutOfRange
  | storeBcd (x : Reg) (h : 4096 < s.i.toNat + 3) : Raises s (.storeBcd x) .addressOutOfRange
  | storeRegs (x : Reg) (h : 4096 < s.i.toNat + (x.toNat + 1)) : Raises s (.storeRegs x) .addressOutOfRange
  | loadRegs (x : Reg) (h : 4096 < s.i.toNat + (x.toNat + 1)) : Raises s (.loadRegs x) .addressOutOfRange
  | skp (x : Reg) (h : 15 < (s.reg x).toNat) : Raises s (.skp x) .keyIndexOutOfRange
  | sknp (x : Reg) (h : 15 < (s.reg x).toNat) : Raises s (.sknp x) .keyIndexOutOfRange

/-- What holds between the states before and after an instruction that raises no error. The invariant is kept from any
PC that can be fetched from (R92). -/
structure Completes (i : Instr) (s t : State) : Prop where
  frame : OnlyWrites i.regsWritten i.partsWritten s t
  status : t.status = s.status
  flag : i.writesFlag = true → t.reg VF = 0 ∨ t.reg VF = 1
  inv : s.pc.toNat < 4095 → s.Inv → t.Inv

/-! ### The execute phase, instruction by instruction -/

section
variable {s : State}

theorem exec_of_raises {i : Instr} {c : Cause} (h : Raises s i c) : exec i s = s.raise c := by
  cases h with
  | ret h =>
    show execRet s = _
    rw [execRet, State.pop_eq_none.2 h]
  | call nnn h =>
    show execCall nnn s = _
    rw [execCall, State.push_eq_none.2 h]
  | drw x y n h => exact (execDrw_eq x y n s).trans (if_neg h)
  | storeBcd x h => exact (State.storeAtI_eq s _).trans (if_neg (by simp [decimalDigits]; omega))
  | storeRegs x h => exact (State.storeAtI_eq s _).trans (if_neg (by rw [State.length_regsFrom]; omega))
  | loadRegs x h =>
    show execLoadRegs x s = _
    rw [execLoadRegs, Memory.read_eq_none.2 ⟨by omega, h⟩]
  | skp x h => exact if_pos h
  | sknp x h => exact if_pos h

theorem exec_ret (h : 0 < s.sp.val) : ∃ t, s.pop = some (s.stack[s.sp.val - 1]'(by omega), t) ∧
    exec .ret s = .next (t.setPc (s.stack[s.sp.val - 1]'(by omega))) := by
  obtain ⟨t, hpop⟩ : ∃ t, s.pop = some (s.stack[s.sp.val - 1]'(by omega), t) :=
    ⟨_, State.pop_eq_some.2 ⟨h, rfl, rfl⟩⟩
  refine ⟨t, hpop, ?_⟩
  show execRet s = _
  rw [execRet, hpop]

theorem exec_call (nnn : BitVec 12) (h : s.sp.val < 16) : ∃ t, s.push (s.pc + 2) = some t ∧
    exec (.call nnn) s = .next (t.setPc (zextImm nnn)) := by
  obtain ⟨t, hpush⟩ : ∃ t, s.push (s.pc + 2) = some t := ⟨_, State.push_eq_some.2 ⟨h, rfl⟩⟩
  refine ⟨t, hpush, ?_⟩
  show execCall nnn s = _
  rw [execCall, State.nextPc_eq, hpush]

theorem exec_drw (x y : Reg) {n : BitVec 4} (h : n.toNat = 0 ∨ s.i.toNat + n.toNat ≤ 4096) :
    exec (.drw x y n) s = .next (s.drawSprite ((s.reg x).toNat % 64) ((s.reg y).toNat % 32)
      (s.mem.getBytes s.i.toNat n.toNat)) :=
  (execDrw_eq x y n s).trans (if_pos h)

theorem exec_storeBcd (x : Reg) (h : s.i.toNat + 3 ≤ 4096) :
    exec (.storeBcd x) s = .next (s.setMem (s.mem.setBytes s.i.toNat (decimalDigits (s.reg x)))).goNext :=
  (State.storeAtI_eq s _).trans (if_pos (.inr h))

theorem exec_storeRegs {x : Reg} (h : s.i.toNat + (x.toNat + 1) ≤ 4096) :
    exec (.storeRegs x) s = .next (s.setMem (s.mem.setBytes s.i.toNat (s.regsFrom 0 (x.toNat + 1)))).goNext :=
  (State.storeAtI_eq s _).trans (if_pos (by rw [State.length_regsFrom]; exact .inr h))

theorem exec_loadRegs {x : Reg} (h : s.i.toNat + (x.toNat + 1) ≤ 4096) :
    exec (.loadRegs x) s = .next (s.setRegsFrom 0 (s.mem.getBytes s.i.toNat (x.toNat + 1))).goNext := by
  show execLoadRegs x s = _
  rw [execLoadRegs, Memory.read_eq_some.2 ⟨.inr h, rfl⟩]

theorem exec_skp {x : Reg} (h : (s.reg x).toNat ≤ 15) :
    exec (.skp x) s = .next (s.skipIf (s.key (s.reg x).toNat)) := if_neg (by omega)

theorem exec_sknp {x : Reg} (h : (s.reg x).toNat ≤ 15) :
    exec (.sknp x) s = .next (s.skipIf (!s.key (s.reg x).toNat)) := if_neg (by omega)

theorem exec_waitKey_completes (x : Reg) (s : State) : ∃ t, exec (.waitKey x) s = .next t := by
  show ∃ t, execWaitKey x s = .next t
  unfold execWaitKey
  split <;> exact ⟨_, rfl⟩

end

/-! ### The invariant under the operations -/

section
variable {s t : State}

/-- The invariant looks at memory, PC and the stack only. -/
theorem inv_of_mem_stack (h : s.Inv) (hmem : t.mem = s.mem) (hstack : t.stack = s.stack) (hpc : t.pc.toNat ≤ 0x10FE) :
    t.Inv where
  mem := hmem ▸ h.mem
  pc := hpc
  stack k hk := by simpa only [hstack] using h.stack k hk

theorem toNat_pc_add_two (h : s.pc.toNat < 4095) : (s.pc + 2).toNat ≤ 0x1000 := by
  rw [BitVec.toNat_add]
  exact (Nat.mod_le _ _).trans (by simp; omega)

theorem toNat_pc_add_four (h : s.pc.toNat < 4095) : (s.pc + 4).toNat ≤ 0x10FE := by
  rw [BitVec.toNat_add]
  exact (Nat.mod_le _ _).trans (by simp; omega)

/-- A completed instruction that keeps memory and the stack and moves PC within the bound. -/
theorem Completes.of_mem_stack {i : Instr} (frame : OnlyWrites i.regsWritten i.partsWritten s t)
    (status : t.status = s.status) (flag : i.writesFlag = true → t.reg VF = 0 ∨ t.reg VF = 1) (hmem : t.mem = s.mem) (hstack : t.stack = s.stack)
    (hpc : s.pc.toNat < 4095 → t.pc.toNat ≤ 0x10FE) : Completes i s t :=
  ⟨frame, status, flag, fun hfetch hinv => inv_of_mem_stack hinv hmem hstack (hpc hfetch)⟩

/-- The same for an instruction that ends in `PC <- next` and writes no flag. -/
theorem Completes.goNext {i : Instr} (frame : OnlyWrites i.regsWritten i.partsWritten s t)
    (status : t.status = s.status) (hflag : i.writesFlag = false) (hmem : t.mem = s.mem) (hstack : t.stack = s.stack) (hpc : t.pc = s.pc) :
    Completes i s t.goNext :=
  .of_mem_stack frame.goNext status (by simp [hflag]) hmem hstack fun hfetch => by
    rw [State.goNext_pc, State.nextPc_eq, hpc]
    exact (toNat_pc_add_two hfetch).trans (by decide)

end

/-! ### The shapes of completion -/

section
variable (s : State) {i : Instr}

theorem toNat_zextByte (b : Byte) : (zextByte b).toNat = b.toNat := BitVec.toNat_setWidth_of_le (by decide)

/-- The target of `BNNN` fits a word, so its sum is not reduced (R103). -/
theorem toNat_offsetTarget (nnn : BitVec 12) (b : Byte) :
    (zextImm nnn + zextByte b).toNat = nnn.toNat + b.toNat := by
  have hn := nnn.isLt
  have hb := b.isLt
  rw [BitVec.toNat_add, IndexMemory.toNat_zextImm, toNat_zextByte]
  omega

theorem completes_setPc (hflag : i.writesFlag = false) {a : Word} (ha : s.pc.toNat < 4095 → a.toNat ≤ 0x10FE) :
    Completes i s (s.setPc a) :=
  .of_mem_stack (Control.setPc_onlyWrites _ _ s a) rfl (by simp [hflag]) rfl rfl ha

theorem completes_skipIf (hflag : i.writesFlag = false) (c : Bool) : Completes i s (s.skipIf c) := by
  rw [State.skipIf_eq]
  refine completes_setPc s hflag fun hfetch => ?_
  cases c
  · exact (toNat_pc_add_two hfetch).trans (by decide)
  · exact toNat_pc_add_four hfetch

theorem completes_setReg {x : Reg} (hx : x ∈ i.regsWritten) (hflag : i.writesFlag = false) (b : Byte) :
    Completes i s (s.setReg x b).goNext :=
  .goNext ((OnlyWrites.refl _ _ s).setReg hx b) rfl hflag rfl rfl rfl

theorem completes_setI (hp : Part.i ∈ i.partsWritten) (hflag : i.writesFlag = false) (a : Word) :
    Completes i s (s.setI a).goNext :=
  .goNext ((OnlyWrites.refl _ _ s).setI hp a) rfl hflag rfl rfl rfl

theorem completes_aluFlagged {x : Reg} (hx : x ∈ i.regsWritten) (hf : VF ∈ i.regsWritten) (b : Byte) (c : Bool) :
    Completes i s (s.aluFlagged x b c) :=
  .of_mem_stack (((OnlyWrites.refl _ _ s).setReg hx b).setReg hf _).goNext rfl
    (fun _ => by rw [State.aluFlagged_flag]; exact flagByte_eq c) rfl rfl
    fun hfetch => (toNat_pc_add_two hfetch).trans (by decide)

theorem drawSprite_flag (x0 y0 : Nat) (bs : List Byte) :
    (s.drawSprite x0 y0 bs).reg VF = flagByte (drawPixels s.fb (spriteTargets x0 y0 bs)).2 := by
  rw [State.drawSprite, State.goNext_reg, State.reg_setReg_same]

theorem completes_drawSprite (x y : Reg) (n : BitVec 4) (x0 y0 : Nat) (bs : List Byte) :
    Completes (.drw x y n) s (s.drawSprite x0 y0 bs) :=
  .of_mem_stack (((OnlyWrites.refl [VF] [.fb, .status] s).setFb (by simp) _).setReg (by simp) _).goNext rfl
    (fun _ => by rw [drawSprite_flag]; exact flagByte_eq _) rfl rfl
    fun hfetch => (toNat_pc_add_two hfetch).trans (by decide)

theorem completes_storeBytes (hp : Part.mem ∈ i.partsWritten) (hflag : i.writesFlag = false) (bs : List Byte)
    (hr : s.i.toNat + bs.length ≤ 4096) : Completes i s (s.setMem (s.mem.setBytes s.i.toNat bs)).goNext where
  frame := ((OnlyWrites.refl _ _ s).setMem hp _).goNext
  status := rfl
  flag := by simp [hflag]
  inv hfetch hinv := ⟨Memory.wf_setBytes bs hinv.mem (.inr hr), (toNat_pc_add_two hfetch).trans (by decide), hinv.stack⟩

end

/-! ### The instructions that may raise an error, or whose result is more than one write -/

section
variable (s : State)

/-- The execute phase raises an error, or completes (R95). -/
def RaisesOrCompletes (i : Instr) : Prop :=
  (∃ c, Raises s i c) ∨ ∃ t, exec i s = .next t ∧ Completes i s t

theorem ret_cases : RaisesOrCompletes s .ret := by
  by_cases h : s.sp.val = 0
  · exact .inl ⟨_, .ret h⟩
  · obtain ⟨t, hpop, hexec⟩ := exec_ret (s := s) (by omega)
    obtain ⟨_, -, rfl⟩ := State.pop_eq_some.1 hpop
    have hframe : OnlyWrites [] [.sp, .status] s _ := (OnlyWrites.refl _ _ s).pop (by simp) hpop
    exact .inr ⟨_, hexec, hframe.setPc _, rfl, nofun, fun _ hinv =>
      ⟨hinv.mem, (hinv.stack _ _).trans (by decide), hinv.stack⟩⟩

theorem call_cases (nnn : BitVec 12) : RaisesOrCompletes s (.call nnn) := by
  by_cases h : s.sp.val = 16
  · exact .inl ⟨_, .call nnn h⟩
  · obtain ⟨t, hpush, hexec⟩ := exec_call (s := s) nnn (by omega)
    obtain ⟨hlt, rfl⟩ := State.push_eq_some.1 hpush
    have hframe : OnlyWrites [] [.sp, .stack, .status] s _ := (OnlyWrites.refl _ _ s).push (by simp) (by simp) hpush
    refine .inr ⟨_, hexec, hframe.setPc _, rfl, nofun, fun hfetch hinv => ⟨hinv.mem, ?_, fun k hk => ?_⟩⟩
    · rw [State.setPc_pc, IndexMemory.toNat_zextImm]; omega
    · show (s.stack.set s.sp.val (s.pc + 2) hlt)[k].toNat ≤ _
      rw [Vector.getElem_set]
      split
      · exact toNat_pc_add_two hfetch
      · exact hinv.stack k hk

theorem drw_cases (x y : Reg) (n : BitVec 4) : RaisesOrCompletes s (.drw x y n) := by
  by_cases h : n.toNat = 0 ∨ s.i.toNat + n.toNat ≤ 4096
  · exact .inr ⟨_, exec_drw x y h, completes_drawSprite s x y n _ _ _⟩
  · exact .inl ⟨_, .drw x y n h⟩

theorem storeBcd_cases (x : Reg) : RaisesOrCompletes s (.storeBcd x) := by
  rcases Nat.lt_or_ge 4096 (s.i.toNat + 3) with h | h
  · exact .inl ⟨_, .storeBcd x h⟩
  · exact .inr ⟨_, exec_storeBcd x h, completes_storeBytes s (by simp [Instr.partsWritten]) rfl _ h⟩

theorem storeRegs_cases (x : Reg) : RaisesOrCompletes s (.storeRegs x) := by
  rcases Nat.lt_or_ge 4096 (s.i.toNat + (x.toNat + 1)) with h | h
  · exact .inl ⟨_, .storeRegs x h⟩
  · exact .inr ⟨_, exec_storeRegs h, completes_storeBytes s (by simp [Instr.partsWritten]) rfl _
      (by rwa [State.length_regsFrom])⟩

theorem loadRegs_cases (x : Reg) : RaisesOrCompletes s (.loadRegs x) := by
  rcases Nat.lt_or_ge 4096 (s.i.toNat + (x.toNat + 1)) with h | h
  · exact .inl ⟨_, .loadRegs x h⟩
  · have hframe := loadUpTo_onlyWrites [.status] s x s.i.toNat
    refine .inr ⟨_, exec_loadRegs h, ?_⟩
    rw [State.setRegsFrom_eq] at hframe ⊢
    exact .goNext hframe rfl rfl rfl rfl rfl

theorem skp_cases (x : Reg) : RaisesOrCompletes s (.skp x) := by
  rcases Nat.lt_or_ge 15 (s.reg x).toNat with h | h
  · exact .inl ⟨_, .skp x h⟩
  · exact .inr ⟨_, exec_skp h, completes_skipIf s rfl _⟩

theorem sknp_cases (x : Reg) : RaisesOrCompletes s (.sknp x) := by
  rcases Nat.lt_or_ge 15 (s.reg x).toNat with h | h
  · exact .inl ⟨_, .sknp x h⟩
  · exact .inr ⟨_, exec_sknp h, completes_skipIf s rfl _⟩

theorem waitKey_cases (x : Reg) : RaisesOrCompletes s (.waitKey x) := by
  obtain ⟨t, ht⟩ := exec_waitKey_completes x s
  refine .inr ⟨t, ht, ?_⟩
  rcases execWaitKey_cases ht with ⟨-, rfl⟩ | ⟨k, -, rfl | rfl⟩
  · exact ⟨.refl _ _ _, rfl, nofun, fun _ hinv => hinv⟩
  · exact completes_setReg s (by simp [Instr.regsWritten]) rfl _
  · exact .goNext (((OnlyWrites.refl [x] [.draws] s).setReg (by simp) _).countDraw (by simp)) rfl rfl rfl rfl rfl

theorem exec_cases (i : Instr) : RaisesOrCompletes s i := by
  cases i with
  | cls =>
    exact .inr ⟨_, rfl, .goNext ((OnlyWrites.refl _ _ s).setFb (by simp [Instr.partsWritten]) _) rfl rfl rfl rfl rfl⟩
  | ret => exact ret_cases s
  | jp nnn => exact .inr ⟨_, rfl, completes_setPc s rfl fun _ => by rw [IndexMemory.toNat_zextImm]; omega⟩
  | call nnn => exact call_cases s nnn
  | seImm | sneImm | seReg | sneReg => exact .inr ⟨_, rfl, completes_skipIf s rfl _⟩
  | ldImm | addImm | ldReg | orReg | andReg | xorReg | readDelay =>
    exact .inr ⟨_, rfl, completes_setReg s (by simp [Instr.regsWritten]) rfl _⟩
  | addReg | subReg | shr | subn | shl =>
    exact .inr ⟨_, rfl, completes_aluFlagged s (by simp [Instr.regsWritten]) (by simp [Instr.regsWritten]) _ _⟩
  | ldI | addI | ldFont => exact .inr ⟨_, rfl, completes_setI s (by simp [Instr.partsWritten]) rfl _⟩
  | jpV0 nnn => exact .inr ⟨_, rfl, completes_setPc s rfl fun _ => by rw [toNat_offsetTarget]; omega⟩
  | rnd x nn =>
    exact .inr ⟨_, rfl, .goNext (((OnlyWrites.refl _ _ s).setReg (by simp [Instr.regsWritten]) _).countDraw
      (by simp [Instr.partsWritten])) rfl rfl rfl rfl rfl⟩
  | drw x y n => exact drw_cases s x y n
  | skp x => exact skp_cases s x
  | sknp x => exact sknp_cases s x
  | waitKey x => exact waitKey_cases s x
  | setDelay =>
    exact .inr ⟨_, rfl, .goNext ((OnlyWrites.refl _ _ s).setDt (by simp [Instr.partsWritten]) _) rfl rfl rfl rfl rfl⟩
  | setSound =>
    exact .inr ⟨_, rfl, .goNext ((OnlyWrites.refl _ _ s).setSt (by simp [Instr.partsWritten]) _) rfl rfl rfl rfl rfl⟩
  | storeBcd x => exact storeBcd_cases s x
  | storeRegs x => exact storeRegs_cases s x
  | loadRegs x => exact loadRegs_cases s x

end

/-! ### What the execute phase can do -/

section
variable {i : Instr} {s t : State}

/-- The execute phase as one inversion: STATUS latches an error that the instruction raises, or the instruction
completes. -/
theorem exec_next_cases (h : exec i s = .next t) :
    (∃ c, Raises s i c ∧ t = s.setStatus (.halted c)) ∨ Completes i s t := by
  rcases exec_cases s i with ⟨c, hc⟩ | ⟨u, hu, hcomp⟩
  · rw [exec_of_raises hc, State.raise_eq_next] at h
    exact .inl ⟨c, hc, h⟩
  · rw [hu, Host.Outcome.next.injEq] at h
    exact .inr (h ▸ hcomp)

theorem exec_total (i : Instr) (s : State) : ∃ t, exec i s = .next t := by
  rcases exec_cases s i with ⟨c, hc⟩ | ⟨t, ht, -⟩
  · exact ⟨_, exec_of_raises hc⟩
  · exact ⟨t, ht⟩

/-- An instruction that can raise an error has STATUS among the items it writes. -/
theorem status_mem_of_raises {c : Cause} (h : Raises s i c) : Part.status ∈ i.partsWritten := by
  cases h <;> simp [Instr.partsWritten]

end

/-- Settles O45: an error writes STATUS only, and a completed instruction keeps its frame. -/
theorem instructionsWriteOnlyTheirOwn : Obligations.InstructionsWriteOnlyTheirOwn := by
  intro i s t h
  rcases exec_next_cases h with ⟨c, hc, rfl⟩ | hcomp
  · exact (OnlyWrites.refl _ _ s).setStatus (status_mem_of_raises hc) _
  · exact hcomp.frame

/-- Settles O46: a completed instruction that writes no flag keeps every register its frame does not name; the others
leave a flag byte. -/
theorem flagIsWrittenByFlagInstructionsOnly : Obligations.FlagIsWrittenByFlagInstructionsOnly := by
  intro i s t _ h hrun
  rcases exec_next_cases h with ⟨c, -, rfl⟩ | hcomp
  · simp at hrun
  · exact ⟨hcomp.flag, fun _ => hcomp.frame.reg VF⟩

/-- Settles O14: a completed instruction leaves the core running, so the error is one the instruction raises. -/
theorem errorsByInstruction : Obligations.ErrorsByInstruction := by
  intro i s t c hrun h hhalt
  rcases exec_next_cases h with ⟨d, hd, rfl⟩ | hcomp
  · obtain rfl : d = c := by simpa using hhalt
    cases hd with
    | ret hsp => exact .inl ⟨rfl, rfl, hsp⟩
    | call nnn hsp => exact .inr (.inl ⟨nnn, rfl, rfl, hsp⟩)
    | drw x y n hr => exact .inr (.inr (.inl ⟨x, y, n, rfl, rfl, by omega, by omega⟩))
    | storeBcd x hr => exact .inr (.inr (.inr (.inl ⟨x, rfl, rfl, by omega⟩)))
    | storeRegs x hr => exact .inr (.inr (.inr (.inr (.inl ⟨x, .inl rfl, rfl, by omega⟩))))
    | loadRegs x hr => exact .inr (.inr (.inr (.inr (.inl ⟨x, .inr rfl, rfl, by omega⟩))))
    | skp x hk => exact .inr (.inr (.inr (.inr (.inr ⟨x, .inl rfl, rfl, hk⟩))))
    | sknp x hk => exact .inr (.inr (.inr (.inr (.inr ⟨x, .inr rfl, rfl, hk⟩))))
  · rw [hcomp.status, hrun] at hhalt
    cases hhalt

end Sys2Proof.Execute
end

section
/-! The step: fetch, decode and the halted check around the execute phase, and what every step keeps. -/

namespace Sys2Proof.Stepping

open Sys2Proof.Machine Sys2Proof.Execute

/-! ### Fetching -/

section
variable {s : State}

theorem fetch_ok (h : s.pc.toNat < 4095) : s.fetch = .ok (Claims.wordAtPc s) := by
  rw [State.fetch_eq, if_pos h]; rfl

theorem fetch_error (h : 4095 ≤ s.pc.toNat) : s.fetch = .error .addressOutOfRange := by
  rw [State.fetch_eq, if_neg (by omega)]

/-- An error of the fetch is the error of the fetch and decode phases together (R206). -/
theorem fetchInstr_of_fetch_error {c : Cause} (h : s.fetch = .error c) : s.fetchInstr = .error c := by
  rw [State.fetchInstr, h]

theorem fetchInstr_of_decode_error (h : s.pc.toNat < 4095)
    (hd : decode (Claims.wordAtPc s) = .error .unknownInstruction) : s.fetchInstr = .error .unknownInstruction := by
  simp only [State.fetchInstr, fetch_ok h, hd]

end

/-- Settles O6: the fetch answers the word at PC, and a running core executes what it decodes to. -/
theorem stepRunsDecodedInstruction : Obligations.StepRunsDecodedInstruction := by
  intro s i hrun hpc hd _
  exact step_of_ok hrun (State.fetchInstr_eq_ok.2 ⟨by omega, hd⟩)

/-- Settles O8: the word at PC is the big-endian number of its two bytes. -/
theorem fetchIsBigEndianAndRangeChecked : Obligations.FetchIsBigEndianAndRangeChecked := by
  intro s
  refine ⟨fun h => ⟨Claims.wordAtPc s, fetch_ok (by omega), joinBytes_toNat _ _⟩, fun h => fetch_error (by omega)⟩

/-- Settles O9: a running core raises the error of its fetch. -/
theorem fetchOutOfRangeHalts : Obligations.FetchOutOfRangeHalts := fun _ hrun hpc =>
  step_of_error hrun (fetchInstr_of_fetch_error (fetch_error hpc))

/-- Settles O10: a running core raises the error of its decode. -/
theorem unknownWordHalts : Obligations.UnknownWordHalts := fun _ hrun hpc hd =>
  step_of_error hrun (fetchInstr_of_decode_error (by omega) hd)

/-! ### What a step answers -/

/-- Settles O12: a halted core answers itself, an error of fetch or decode answers a halted state, and the execute phase
always answers. -/
theorem everyStepCompletes : Obligations.EveryStepCompletes := by
  intro s
  cases hs : s.status with
  | halted c => exact ⟨s, step_of_halted hs⟩
  | running =>
    cases hf : s.fetchInstr with
    | error c => exact ⟨_, step_of_error hs hf⟩
    | ok i => rw [step_of_ok hs hf]; exact exec_total i s

theorem outcomeResult_of_running {s t : State} (h : step s = .next t) (ht : t.status = .running) :
    outcomeResult (step s) = some .success := by
  simp [h, outcomeResult, State.result, ht]

theorem outcomeResult_of_halted {s t : State} {c : Cause} (h : step s = .next t) (ht : t.status = .halted c) :
    outcomeResult (step s) = some (.error c) := by
  simp [h, outcomeResult, State.result, ht]

/-- Settles O13: the errors of fetch, decode and execute each write STATUS only, and a completed instruction keeps
it. -/
theorem errorStepChangesOnlyStatus : Obligations.ErrorStepChangesOnlyStatus := by
  intro s t hrun h
  rcases step_cases h with ⟨c, hc, -⟩ | ⟨-, c, -, rfl⟩ | ⟨-, i, -, hexec⟩
  · rw [hrun] at hc; cases hc
  · exact .inr ⟨c, rfl, outcomeResult_of_halted h rfl⟩
  · rcases exec_next_cases hexec with ⟨c, -, rfl⟩ | hcomp
    · exact .inr ⟨c, rfl, outcomeResult_of_halted h rfl⟩
    · have ht : t.status = .running := hcomp.status.trans hrun
      exact .inl ⟨ht, outcomeResult_of_running h ht⟩

/-- Settles O11: the halted check comes first in a step, and the events beside `step` and `reset` do not write
STATUS. -/
theorem haltedCoreStaysHalted : Obligations.HaltedCoreStaysHalted := by
  intro s c hs
  have hstep := step_of_halted hs
  refine ⟨hstep, outcomeResult_of_halted hstep hs, fun e he => ?_⟩
  cases e with
  | step => exact ⟨s, hstep, hs⟩
  | tick => exact ⟨s.tick, rfl, hs⟩
  | keyWrite k b => exact ⟨s.keyWrite k b, rfl, hs⟩
  | reset rom => exact absurd rfl (he rom)

/-- Settles O49: the word at PC decodes to the jump to PC, which writes PC with itself. -/
theorem selfJumpChangesNothing : Obligations.SelfJumpChangesNothing := by
  rintro s ⟨hrun, hpc, hword⟩
  have hF : fieldF (Claims.wordAtPc s) = 0x1 := by
    apply BitVec.eq_of_toNat_eq
    rw [fieldF_toNat, Claims.wordAtPc, hword, BitVec.toNat_add]
    simp; omega
  have hself : zextImm (fieldNNN (Claims.wordAtPc s)) = s.pc := by
    apply BitVec.eq_of_toNat_eq
    rw [IndexMemory.toNat_zextImm, fieldNNN_toNat, Claims.wordAtPc, hword, BitVec.toNat_add]
    simp; omega
  have hfetch : s.fetchInstr = .ok (.jp (fieldNNN (Claims.wordAtPc s))) :=
    State.fetchInstr_eq_ok.2 ⟨by omega, Encoding.decode_of_fieldF_eq_1 hF⟩
  rw [step_of_ok hrun hfetch]
  show Host.Outcome.next (s.setPc (zextImm _)) = _
  rw [hself]; rfl

/-! ### The invariant -/

/-- Settles O57: memory lists nothing, PC is 0x200 and every stack entry 0. -/
theorem invariantHoldsAtReset : Obligations.InvariantHoldsAtReset where
  mem := reset_mem_wf
  pc := by decide
  stack k hk := by simp [State.reset]

theorem inv_setStatus {s : State} (h : s.Inv) (c : Status) : (s.setStatus c).Inv := ⟨h.mem, h.pc, h.stack⟩

/-- Settles O58: an error writes STATUS only; an instruction is executed from a PC that could be fetched from, so its
completion keeps the invariant. -/
theorem stepKeepsInvariant : Obligations.StepKeepsInvariant := by
  intro s t hinv h
  rcases step_cases h with ⟨c, -, rfl⟩ | ⟨-, c, -, rfl⟩ | ⟨-, i, hfetch, hexec⟩
  · exact hinv
  · exact inv_setStatus hinv _
  · obtain ⟨hpc, -⟩ := State.fetchInstr_eq_ok.1 hfetch
    rcases exec_next_cases hexec with ⟨c, -, rfl⟩ | hcomp
    · exact inv_setStatus hinv _
    · exact hcomp.inv hpc hinv

end Sys2Proof.Stepping
end

section
/-! Control transfer (41_control.md): the return, the jumps, the call and the register skips. -/

namespace Sys2Proof.Control

open Sys2Proof.Machine Sys2Proof.Claims Sys2Proof.Encoding Sys2Proof.Execute

/-- Settles O15: below the top the return is a pop and a write of PC; at the bottom it raises the underflow. -/
theorem returnPopsTheStack : Obligations.ReturnPopsTheStack := by
  refine ⟨decode_word_ret, fun s h => ?_, fun s h => exec_of_raises (.ret h)⟩
  obtain ⟨t, hpop, hexec⟩ := exec_ret h
  have hframe : OnlyWrites [] [.sp] s t := (OnlyWrites.refl _ _ s).pop (by simp) hpop
  obtain ⟨_, -, rfl⟩ := State.pop_eq_some.1 hpop
  exact ⟨_, hexec, rfl, rfl, hframe.setPc _⟩

/-- Settles O16: the form decodes by its family nibble alone and is one write of PC with the widened NNN. -/
theorem jumpSetsPc : Obligations.JumpSetsPc :=
  ⟨fun _ => decode_of_fieldF_eq_1, fun nnn s =>
    ⟨s.setPc (zextImm nnn), rfl, IndexMemory.toNat_zextImm nnn, setPc_onlyWrites [] [] s _⟩⟩

/-- Settles O17: below the top the call is a push of the next address and a write of PC; at the top it raises the
overflow. -/
theorem callPushesReturnAddress : Obligations.CallPushesReturnAddress := by
  refine ⟨fun _ => decode_of_fieldF_eq_2, fun nnn s h => ?_, fun nnn s h => exec_of_raises (.call nnn h)⟩
  obtain ⟨t, hpush, hexec⟩ := exec_call nnn h
  have hframe : OnlyWrites [] [.sp, .stack] s t := (OnlyWrites.refl _ _ s).push (by simp) (by simp) hpush
  obtain ⟨_, rfl⟩ := State.push_eq_some.1 hpush
  exact ⟨_, hexec, Vector.getElem_set_self h, fun k hk hne => Vector.getElem_set_ne h hk hne.symm, rfl,
    IndexMemory.toNat_zextImm nnn, hframe.setPc _⟩

/-- Settles O18: the form is one write of PC with the sum, which fits a word. -/
theorem jumpWithOffsetAddsV0 : Obligations.JumpWithOffsetAddsV0 :=
  ⟨fun _ => decode_of_fieldF_eq_B, fun nnn s =>
    ⟨_, rfl, toNat_offsetTarget nnn (s.reg 0), setPc_onlyWrites [] [] s _⟩⟩

theorem seReg_skips (x y : Reg) : Skips (.seReg x y) (fun s => s.reg x = s.reg y) :=
  skips_of_exec_eq_skipIf (fun _ => rfl) fun _ => beq_iff_eq

theorem sneReg_skips (x y : Reg) : Skips (.sneReg x y) (fun s => s.reg x ≠ s.reg y) :=
  skips_of_exec_eq_skipIf (fun _ => rfl) fun _ => bne_iff_ne

/-- Settles O20: both forms decode by their family nibble and N = 0, and end in `skipIf` of the comparison. -/
theorem skipOnRegisters : Obligations.SkipOnRegisters :=
  ⟨fun _ => decode_of_fieldF_eq_5, fun _ => decode_of_fieldF_eq_9, fun x y => ⟨seReg_skips x y, sneReg_skips x y⟩⟩

/-- Settles O48: the return finds the entry that the call stored below SP, and SP is back where it was. -/
theorem callThenReturnComesBack : Obligations.CallThenReturnComesBack := by
  intro nnn s h
  obtain ⟨-, hcall, -⟩ := callPushesReturnAddress
  obtain ⟨-, hret, -⟩ := returnPopsTheStack
  obtain ⟨t, hexec, htop, hothers, hsp, -, hframe⟩ := hcall nnn s h
  obtain ⟨u, hexec', hsp', hpc, hframe'⟩ := hret t (by omega)
  have hstack : u.stack = t.stack := hframe'.stack (by simp)
  have hback : u.sp = s.sp := Fin.ext (by omega)
  have hboth : OnlyWrites [] [.sp, .stack] s u := hframe.trans (hframe'.mono (by simp))
  refine ⟨t, u, hexec, hexec', ?_, hback, ?_, fun k hk hne => ?_, hboth.drop_sp hback⟩
  · simp only [hpc, hsp, Nat.add_sub_cancel, htop]
  · simp only [hstack, htop]
  · simp only [hstack, hothers k hk hne]

end Sys2Proof.Control
end

section
/-! Random, and the rest of the ALU group (42_const_random.md, 43_alu.md). -/

namespace Sys2Proof.Alu

open Sys2Proof.Machine Sys2Proof.Claims Sys2Proof.Encoding Sys2Proof.ConstRandom

/-- Settles O23: the form is one register write of the masked draw and one count of a draw; the mask clears the bits
that NN has clear. -/
theorem randomUnderMask : Obligations.RandomUnderMask := by
  refine ⟨fun _ => decode_of_fieldF_eq_C, fun x nn s => ?_⟩
  have hframe : OnlyWrites [x] [.draws] s ((s.setReg x (Config.randByte s.draws &&& nn)).countDraw).goNext :=
    (((OnlyWrites.refl _ _ s).setReg (by simp) _).countDraw (by simp)).goNext
  have hreg : ((s.setReg x (Config.randByte s.draws &&& nn)).countDraw).goNext.reg x = Config.randByte s.draws &&& nn :=
    State.reg_setReg_same s x _
  refine ⟨_, rfl, hreg, ?_, rfl, rfl, hframe⟩
  rw [hreg, BitVec.and_assoc, BitVec.and_not_self]
  exact BitVec.and_zero

/-- A word of the ALU family decodes by its sub-opcode. -/
theorem decode_of_fieldN {op : Word} {n : BitVec 4} (hF : fieldF op = 0x8) (hN : fieldN op = n) :
    decode op = decodeAlu (fieldX op) (fieldY op) n := by
  rw [decode_of_fieldF_eq_8 hF, hN]

/-- Settles O24: the four forms decode by their sub-opcodes and are one register write each. -/
theorem assignAndLogic : Obligations.AssignAndLogic :=
  ⟨fun _ hF => ⟨decode_of_fieldN hF, decode_of_fieldN hF, decode_of_fieldN hF, decode_of_fieldN hF⟩, fun _ _ =>
    ⟨loadsReg_of_exec_eq_setReg fun _ => rfl, loadsReg_of_exec_eq_setReg fun _ => rfl,
      loadsReg_of_exec_eq_setReg fun _ => rfl, loadsReg_of_exec_eq_setReg fun _ => rfl⟩⟩

/-! ### Subtraction -/

theorem toNat_subBytes (a b : Byte) : ((subBytes a b).toNat : Int) = ((a.toNat : Int) - b.toNat) % 256 := by
  have hb := b.isLt
  rw [subBytes, BitVec.toNat_ofNat]
  omega

theorem noBorrow_eq_true {a b : Byte} : noBorrow a b = true ↔ b.toNat ≤ a.toNat := decide_eq_true_iff

/-- Settles O26: the form ends in `aluFlagged` of the wrapped difference and its no-borrow test. -/
theorem subtractWithNoBorrowFlag : Obligations.SubtractWithNoBorrowFlag :=
  ⟨fun _ => decode_of_fieldN, fun _ _ =>
    writesFlagged_of_exec_eq_aluFlagged (fun _ => rfl) (fun _ => toNat_subBytes _ _) fun _ => noBorrow_eq_true⟩

/-- Settles O27: as the form 5 with the operands exchanged. -/
theorem reverseSubtractWithNoBorrowFlag : Obligations.ReverseSubtractWithNoBorrowFlag :=
  ⟨fun _ => decode_of_fieldN, fun _ _ =>
    writesFlagged_of_exec_eq_aluFlagged (fun _ => rfl) (fun _ => toNat_subBytes _ _) fun _ => noBorrow_eq_true⟩

/-! ### Shifts (R137, R139, R141) -/

theorem shiftSource_eq (s : State) (x y : Reg) : s.shiftSource x y = shiftSrcReg s x y := by
  rw [State.shiftSource, shiftSrcReg]
  cases s.shiftSrc <;> rfl

theorem toNat_shiftRight_one (b : Byte) : ((b >>> 1).toNat : Int) = (b.toNat : Int) / 2 % 256 := by
  have hb := b.isLt
  rw [BitVec.toNat_ushiftRight, Nat.shiftRight_eq_div_pow]
  omega

theorem toNat_shiftLeft_one (b : Byte) : ((b <<< 1).toNat : Int) = (b.toNat : Int) * 2 % 256 := by
  rw [BitVec.toNat_shiftLeft, Nat.shiftLeft_eq]
  omega

theorem shiftedOutRight_eq_true {b : Byte} : shiftedOutRight b = true ↔ b.toNat % 2 = 1 := by
  rw [shiftedOutRight, BitVec.getLsbD, Nat.testBit_eq_decide_div_mod_eq, decide_eq_true_iff, pow_zero, Nat.div_one]

theorem shiftedOutLeft_eq_true {b : Byte} : shiftedOutLeft b = true ↔ b.toNat / 128 = 1 := by
  have hb := b.isLt
  rw [shiftedOutLeft, BitVec.getLsbD, Nat.testBit_eq_decide_div_mod_eq, decide_eq_true_iff]
  omega

/-- Settles O28: the form ends in `aluFlagged` of the halved source and its bit 0. -/
theorem shiftRightByOne : Obligations.ShiftRightByOne := by
  refine ⟨fun _ => decode_of_fieldN, fun x y =>
    writesFlagged_of_exec_eq_aluFlagged (fun _ => rfl) (fun s => ?_) fun s => ?_⟩
  · rw [shiftSource_eq, toNat_shiftRight_one]
  · rw [shiftSource_eq, shiftedOutRight_eq_true]

/-- Settles O29: the form ends in `aluFlagged` of the doubled source and its bit 7. -/
theorem shiftLeftByOne : Obligations.ShiftLeftByOne := by
  refine ⟨fun _ => decode_of_fieldN, fun x y =>
    writesFlagged_of_exec_eq_aluFlagged (fun _ => rfl) (fun s => ?_) fun s => ?_⟩
  · rw [shiftSource_eq, toNat_shiftLeft_one]
  · rw [shiftSource_eq, shiftedOutLeft_eq_true]

end Sys2Proof.Alu
end

section
/-! The framebuffer (44_display.md): the clear and the draw, on the laws of Sys2Proof/Laws/Draw.lean. -/

namespace Sys2Proof.Display

open Sys2Proof.Machine Sys2Proof.Claims Sys2Proof.Encoding Sys2Proof.Execute

/-- Settles O30: the form is one write of the framebuffer. -/
theorem clearFramebuffer : Obligations.ClearFramebuffer :=
  ⟨decode_word_cls, fun s => ⟨_, rfl, pixel_clearFb, rfl, ((OnlyWrites.refl _ _ s).setFb (by simp) _).goNext⟩⟩

/-- The pixels that the sprite of `n` bytes at I lands on when drawn at VX, VY (R151). -/
def targets (s : State) (x y : Reg) (n : BitVec 4) : List (Nat × Nat) :=
  spriteTargets ((s.reg x).toNat % 64) ((s.reg y).toNat % 32) (s.mem.getBytes s.i.toNat n.toNat)

section
variable (s : State) (x y : Reg) (n : BitVec 4)

/-- The targets are the pixels that the statements call covered. -/
theorem mem_targets {px py : Nat} : (px, py) ∈ targets s x y n ↔ SpriteCovers s x y n px py := by
  simp only [targets, SpriteCovers, mem_spriteTargets, Memory.length_getBytes, Memory.getElem_getBytes, Prod.mk.injEq,
    exists_prop, exists_and_left]

theorem length_sprite_le : (s.mem.getBytes s.i.toNat n.toNat).length ≤ 32 := by
  have hn := n.isLt
  rw [Memory.length_getBytes]
  omega

theorem pixel_draw_covered {px py : Nat} (h : SpriteCovers s x y n px py) :
    pixel (drawPixels s.fb (targets s x y n)).1 px py = !pixel s.fb px py := by
  rw [targets, pixel_drawSprite _ _ _ _ (length_sprite_le s n), ← targets, decide_eq_true ((mem_targets s x y n).2 h),
    Bool.xor_true]

theorem pixel_draw_uncovered {px py : Nat} (h : ¬ SpriteCovers s x y n px py) :
    pixel (drawPixels s.fb (targets s x y n)).1 px py = pixel s.fb px py := by
  rw [targets, pixel_drawSprite _ _ _ _ (length_sprite_le s n), ← targets,
    decide_eq_false (mt (mem_targets s x y n).1 h), Bool.xor_false]

theorem collision_draw : (drawPixels s.fb (targets s x y n)).2 = true ↔
    ∃ px py, SpriteCovers s x y n px py ∧ pixel s.fb px py = true := by
  rw [targets, collision_drawSprite _ _ _ _ (length_sprite_le s n), ← targets, Prod.exists]
  simp only [mem_targets]

end

/-- Settles O31: a draw toggles the covered pixels, and the flag says whether one of them was set. -/
theorem drawXorsTheSprite : Obligations.DrawXorsTheSprite := by
  refine ⟨fun _ => decode_of_fieldF_eq_D, fun x y n s hr =>
    ⟨_, exec_drw x y (by omega), fun _ _ => pixel_draw_covered s x y n, fun _ _ => pixel_draw_uncovered s x y n,
      fun hc => ?_, fun hc => ?_, rfl, (((OnlyWrites.refl _ _ s).setFb (by simp) _).setReg (by simp) _).goNext⟩⟩
  · exact (drawSprite_flag s _ _ _).trans (congrArg flagByte ((collision_draw s x y n).2 hc))
  · exact (drawSprite_flag s _ _ _).trans
      (congrArg flagByte (Bool.eq_false_of_not_eq_true (mt (collision_draw s x y n).1 hc)))

/-- A sprite covers the same pixels when its place, I and memory are the same. -/
theorem spriteCovers_congr {s t : State} {x y : Reg} (hx : t.reg x = s.reg x) (hy : t.reg y = s.reg y) (hi : t.i = s.i)
    (hmem : ∀ a, t.mem.get a = s.mem.get a) (n : BitVec 4) (px py : Nat) :
    SpriteCovers t x y n px py ↔ SpriteCovers s x y n px py := by
  simp only [SpriteCovers, hx, hy, hi, hmem]

/-- Settles O32: the second draw covers the same pixels, so each is toggled twice, and it meets a set pixel exactly
where the first draw set one. -/
theorem drawTwiceRestores : Obligations.DrawTwiceRestores := by
  intro x y n s hx hy hr
  obtain ⟨-, hdraw⟩ := drawXorsTheSprite
  obtain ⟨t, hexec, hon, hoff, -, -, -, hframe⟩ := hdraw x y n s hr
  have hi : t.i = s.i := hframe.i (by simp)
  obtain ⟨u, hexec', hon', hoff', hset, hclear, -, -⟩ := hdraw x y n t (by rwa [hi])
  have hcovers := spriteCovers_congr (hframe.reg x (by simpa using hx)) (hframe.reg y (by simpa using hy)) hi
    (hframe.mem (by simp)) n
  simp only [hcovers] at hon' hoff' hset hclear
  have hlit : (∃ px py, SpriteCovers s x y n px py ∧ pixel t.fb px py = true) ↔
      ∃ px py, SpriteCovers s x y n px py ∧ pixel s.fb px py = false :=
    exists₂_congr fun px py => and_congr_right fun hc => by rw [hon px py hc, Bool.not_eq_true']
  rw [hlit] at hset hclear
  refine ⟨t, u, hexec, hexec', fb_ext fun px py _ _ => ?_, fun hone => ?_, hset⟩
  · by_cases hc : SpriteCovers s x y n px py
    · rw [hon' px py hc, hon px py hc, Bool.not_not]
    · rw [hoff' px py hc, hoff px py hc]
  · by_contra hnone
    rw [hclear hnone] at hone
    exact absurd hone (by decide)

end Sys2Proof.Display
end

section
/-! Keys and timers (45_key_timer.md). -/

namespace Sys2Proof.KeyTimer

open Sys2Proof.Machine Sys2Proof.Claims Sys2Proof.Encoding Sys2Proof.Execute

/-- A word of family 0xF decodes by its low byte. -/
theorem decode_of_fieldNN {op : Word} {nn : Byte} (hF : fieldF op = 0xF) (hNN : fieldNN op = nn) :
    decode op = decodeMisc (fieldX op) nn := by
  rw [decode_of_fieldF_eq_F hF, hNN]

theorem decode_skp {op : Word} (hF : fieldF op = 0xE) (hNN : fieldNN op = 0x9E) :
    decode op = .ok (.skp (fieldX op)) := by
  rw [decode_of_fieldF_eq_E hF, hNN]; rfl

theorem decode_sknp {op : Word} (hF : fieldF op = 0xE) (hNN : fieldNN op = 0xA1) :
    decode op = .ok (.sknp (fieldX op)) := by
  rw [decode_of_fieldF_eq_E hF, hNN]; rfl

theorem skipIf_onlyWrites (s : State) (c : Bool) : OnlyWrites [] [] s (s.skipIf c) := by
  rw [State.skipIf_eq]
  exact Control.setPc_onlyWrites [] [] s _

theorem skipIf_pc (s : State) (c : Bool) : (s.skipIf c).pc = if c = true then s.pc + 4 else s.pc + 2 := by
  rw [State.skipIf_eq, State.setPc_pc]

/-- Settles O33: for a key number up to 15 both forms end in `skipIf` of the key, one of them negated. -/
theorem skipOnKey : Obligations.SkipOnKey := by
  refine ⟨fun _ => decode_skp, fun _ => decode_sknp, fun x s h =>
    ⟨⟨_, exec_skp h, skipIf_onlyWrites s _, skipIf_pc s _⟩, _, exec_sknp h, skipIf_onlyWrites s _, ?_⟩⟩
  rw [skipIf_pc]
  cases s.key (s.reg x).toNat <;> rfl

/-- Settles O34: both forms raise the error before they look at the keys. -/
theorem keyNumberAbove15Halts : Obligations.KeyNumberAbove15Halts := fun x _ h =>
  ⟨exec_of_raises (.skp x h), exec_of_raises (.sknp x h)⟩

/-- Settles O35: the form is one register write of DT. -/
theorem readDelayTimer : Obligations.ReadDelayTimer :=
  ⟨fun _ => decode_of_fieldNN, fun _ => ConstRandom.loadsReg_of_exec_eq_setReg fun _ => rfl⟩

theorem exec_waitKey_of_pressedKeys_eq_nil {x : Reg} {s : State} (h : s.pressedKeys = []) :
    exec (.waitKey x) s = .next s := by
  show execWaitKey x s = _
  rw [execWaitKey, h]

theorem toNat_ofNat_byte {n : Nat} (h : n < 256) : (BitVec.ofNat 8 n).toNat = n := by
  rw [BitVec.toNat_ofNat, Nat.mod_eq_of_lt h]

/-- Settles O36: the keys pressed are the members of the pressed list, and whichever of them is taken is one of them. -/
theorem waitForKey : Obligations.WaitForKey := by
  refine ⟨fun _ => decode_of_fieldNN, fun x s hnone => ?_, fun x s hsome => ?_⟩
  · refine exec_waitKey_of_pressedKeys_eq_nil (List.eq_nil_iff_forall_not_mem.2 fun k hk => ?_)
    obtain ⟨hlt, hkey⟩ := State.mem_pressedKeys.1 hk
    rw [hnone k hlt] at hkey
    cases hkey
  · obtain ⟨t, hexec⟩ := exec_waitKey_completes x s
    refine ⟨t, hexec, ?_⟩
    rcases execWaitKey_cases hexec with ⟨hnil, -⟩ | ⟨k, hk, ht⟩
    · obtain ⟨j, hlt, hkey⟩ := hsome
      exact absurd (State.mem_pressedKeys.2 ⟨hlt, hkey⟩) (by simp [hnil])
    · obtain ⟨hlt, hkey⟩ := State.mem_pressedKeys.1 hk
      have hset : OnlyWrites [x] [.draws] s (s.setReg x (BitVec.ofNat 8 k)) :=
        (OnlyWrites.refl _ _ s).setReg (by simp) _
      have hreg : ((s.setReg x (BitVec.ofNat 8 k)).reg x).toNat = k := by
        rw [State.reg_setReg_same, toNat_ofNat_byte (by omega)]
      rcases ht with rfl | rfl
      · exact ⟨⟨k, hlt, hkey, hreg⟩, rfl, hset.goNext⟩
      · exact ⟨⟨k, hlt, hkey, hreg⟩, rfl, (hset.countDraw (by simp)).goNext⟩

theorem soundOn_iff {s : State} : s.soundOn = true ↔ s.st ≠ 0 := bne_iff_ne

/-- Settles O37: each form is one write of its timer. -/
theorem setTimers : Obligations.SetTimers :=
  ⟨fun _ => decode_of_fieldNN, fun _ => decode_of_fieldNN, fun _ s =>
    ⟨⟨_, rfl, rfl, rfl, ((OnlyWrites.refl _ _ s).setDt (by simp) _).goNext⟩,
      _, rfl, rfl, soundOn_iff, rfl, ((OnlyWrites.refl _ _ s).setSt (by simp) _).goNext⟩⟩

end Sys2Proof.KeyTimer
end

section
/-! Memory (20_memory.md): the one-byte accesses, runs of bytes, and the canonical form. -/

namespace Sys2Proof.Machine.Memory

/-- A byte inside a run that was written. -/
theorem get_setBytes_inside (m : Memory) (a : Nat) {bs : List Byte} {j : Nat} (h : j < bs.length) :
    (m.setBytes a bs).get (a + j) = bs[j] := by
  rw [get_setBytes, dif_pos ⟨Nat.le_add_right a j, Nat.add_lt_add_left h a⟩]
  simp only [Nat.add_sub_cancel_left]

/-- A byte outside a run that was written. -/
theorem get_setBytes_outside (m : Memory) {a k : Nat} {bs : List Byte} (h : k < a ∨ a + bs.length ≤ k) :
    (m.setBytes a bs).get k = m.get k := by
  rw [get_setBytes, dif_neg (by omega)]

/-- Settles O7: an access of one byte is in range exactly below 4096, and then it is `get` or `set`. -/
theorem oneByteAccesses : Obligations.OneByteAccesses := by
  intro m a b
  have hlen : [b].length = 1 := rfl
  exact ⟨fun h => ⟨read_eq_some.2 ⟨by omega, rfl⟩, m.set a b, write_eq_some.2 ⟨by omega, rfl⟩, fun k => get_set m a k b⟩,
    fun h => ⟨read_eq_none.2 ⟨by omega, by omega⟩, write_eq_none.2 ⟨by omega, by omega⟩⟩⟩

/-! ### Canonical memories -/

/-- Below its first possible address a canonical memory lists nothing. -/
theorem get_of_lt_of_wfFrom {lo a : Nat} {m : Memory} (hm : wfFrom lo m = true) (ha : a < lo) :
    m.get a = unlisted a := by
  induction m generalizing lo with
  | nil => rfl
  | cons p m ih =>
    obtain ⟨k, c⟩ := p
    obtain ⟨hlo, -, -, hm⟩ := (wfFrom_cons lo k c m).1 hm
    rw [get_cons, if_neg (by omega), ih hm (by omega)]

/-- The first listed cell is visible: it does not read as unlisted. -/
theorem get_head_ne_unlisted {lo k : Nat} {c : Byte} {m : Memory} (hm : wfFrom lo ((k, c) :: m) = true) :
    Memory.get ((k, c) :: m) k ≠ unlisted k := by
  obtain ⟨-, -, hc, -⟩ := (wfFrom_cons lo k c m).1 hm
  rwa [get_cons, if_pos rfl]

/-- The first listed address of one canonical memory is not below that of another that reads the same. -/
theorem head_le_head {lo lo' k k' : Nat} {c c' : Byte} {m m' : Memory} (hm : wfFrom lo ((k, c) :: m) = true)
    (hm' : wfFrom lo' ((k', c') :: m') = true)
    (h : ∀ a < 4096, Memory.get ((k, c) :: m) a = Memory.get ((k', c') :: m') a) : k' ≤ k := by
  by_contra hlt
  obtain ⟨-, hk, -, -⟩ := (wfFrom_cons lo k c m).1 hm
  have hfrom : wfFrom k' ((k', c') :: m') = true :=
    (wfFrom_cons k' k' c' m').2 ⟨Nat.le_refl k', ((wfFrom_cons lo' k' c' m').1 hm').2⟩
  exact get_head_ne_unlisted hm ((h k hk).trans (get_of_lt_of_wfFrom hfrom (by omega)))

/-- The tails of two canonical memories with the same first address read the same. -/
theorem tails_read_same {k : Nat} {c c' : Byte} {m m' : Memory} (hm : wfFrom (k + 1) m = true)
    (hm' : wfFrom (k + 1) m' = true) (h : ∀ a < 4096, Memory.get ((k, c) :: m) a = Memory.get ((k, c') :: m') a) :
    ∀ a < 4096, m.get a = m'.get a := by
  intro a ha
  by_cases hak : a = k
  · rw [get_of_lt_of_wfFrom hm (by omega), get_of_lt_of_wfFrom hm' (by omega)]
  · have := h a ha
    rwa [get_cons, get_cons, if_neg hak, if_neg hak] at this

/-- Canonical memories that read the same below 4096 are the same list. -/
theorem eq_of_wfFrom {lo : Nat} {m m' : Memory} (hm : wfFrom lo m = true) (hm' : wfFrom lo m' = true)
    (h : ∀ a < 4096, m.get a = m'.get a) : m = m' := by
  induction m generalizing lo m' with
  | nil =>
    cases m' with
    | nil => rfl
    | cons q m' =>
      obtain ⟨-, hk, -, -⟩ := (wfFrom_cons lo q.1 q.2 m').1 hm'
      exact absurd (h q.1 hk).symm (get_head_ne_unlisted hm')
  | cons p m ih =>
    obtain ⟨k, c⟩ := p
    obtain ⟨-, hk, -, htail⟩ := (wfFrom_cons lo k c m).1 hm
    cases m' with
    | nil => exact absurd (h k hk) (get_head_ne_unlisted hm)
    | cons q m' =>
      obtain ⟨k', c'⟩ := q
      obtain ⟨-, -, -, htail'⟩ := (wfFrom_cons lo k' c' m').1 hm'
      obtain rfl : k = k' :=
        Nat.le_antisymm (head_le_head hm' hm fun a ha => (h a ha).symm) (head_le_head hm hm' h)
      have hc : c = c' := by simpa [get_cons] using h k hk
      rw [hc, ih htail htail' (tails_read_same htail htail' h)]

/-- Settles O50: canonical from address 0. -/
theorem canonicalMemoriesAreEqualData : Obligations.CanonicalMemoriesAreEqualData := fun _ _ => eq_of_wfFrom

end Sys2Proof.Machine.Memory
end

section
/-! The index register and the memory forms (46_index_memory.md). -/

namespace Sys2Proof.IndexMemory

open Sys2Proof.Machine Sys2Proof.Claims Sys2Proof.Encoding Sys2Proof.Execute Sys2Proof.KeyTimer

/-- Settles O39: the form is one write of I with the sum modulo 65536. -/
theorem addToIndex : Obligations.AddToIndex := by
  refine ⟨fun _ => decode_of_fieldNN, fun x s =>
    ⟨(s.setI (s.i + zextByte (s.reg x))).goNext, rfl, ?_, setI_goNext_pc s _, setI_goNext_onlyWrites [] s _⟩⟩
  rw [State.goNext_i, State.setI_i, BitVec.toNat_add, toNat_zextByte]

/-! ### The font (R172, R37) -/

theorem toNat_fontAddress (b : Byte) : (fontAddress b).toNat = b.toNat * 5 := by
  have hb := b.isLt
  show (0#16 + zextByte b * 5#16).toNat = _
  rw [BitVec.zero_add, BitVec.toNat_mul, toNat_zextByte]
  exact Nat.mod_eq_of_lt (by simp; omega)

/-- Below 80 an unlisted address reads as the byte of the font. -/
theorem font_eq_unlisted {a : Nat} (ha : a < 80) : Config.font[a]? = some (Memory.unlisted a) := by
  have hlen : a < Config.font.length := ha
  rw [Memory.unlisted, List.getElem?_eq_getElem hlen]; rfl

/-- Settles O40: the address fits a word, and the glyph bytes are what memory reads as after reset. -/
theorem fontGlyphAddress : Obligations.FontGlyphAddress := by
  refine ⟨fun _ => decode_of_fieldNN, fun x s =>
    ⟨(s.setI (fontAddress (s.reg x))).goNext, rfl, toNat_fontAddress _, setI_goNext_pc s _,
      setI_goNext_onlyWrites [] s _, fun hx k hk => ?_⟩⟩
  rw [State.goNext_i, State.setI_i, toNat_fontAddress]
  exact font_eq_unlisted (by omega)

/-! ### Stores and loads (R173 to R176) -/

theorem setMem_goNext_onlyWrites (s : State) (m : Memory) : OnlyWrites [] [.mem] s (s.setMem m).goNext :=
  ((OnlyWrites.refl _ _ s).setMem (by simp) m).goNext

/-- Settles O41: the three digits are the bytes of the run at I, each a number below 10. -/
theorem storeDecimalDigits : Obligations.StoreDecimalDigits := by
  refine ⟨fun _ => decode_of_fieldNN, fun x s hr => ?_⟩
  have hb := (s.reg x).isLt
  have hbyte := fun (j : Nat) (hj : j < 3) =>
    congrArg BitVec.toNat (Memory.get_setBytes_inside s.mem s.i.toNat (bs := decimalDigits (s.reg x)) hj)
  refine ⟨_, exec_storeBcd x (by omega), ?_, ?_, ?_, fun a ha => ?_, rfl, setMem_goNext_onlyWrites s _⟩
  · exact (hbyte 0 (by decide)).trans (toNat_ofNat_byte (by omega))
  · exact (hbyte 1 (by decide)).trans (toNat_ofNat_byte (by omega))
  · exact (hbyte 2 (by decide)).trans (toNat_ofNat_byte (by omega))
  · refine Memory.get_setBytes_outside _ (ha.imp_right fun h => ?_)
    show s.i.toNat + 3 ≤ a
    omega

/-- Settles O42: the run at I holds the registers V0 to VX. -/
theorem storeRegisters : Obligations.StoreRegisters := by
  refine ⟨fun _ => decode_of_fieldNN, fun x s hr =>
    ⟨_, exec_storeRegs (by omega), fun k hk => ?_, fun a ha => ?_, rfl, setMem_goNext_onlyWrites s _⟩⟩
  · have hlt : k.toNat < (s.regsFrom 0 (x.toNat + 1)).length := by rw [State.length_regsFrom]; omega
    refine (Memory.get_setBytes_inside s.mem s.i.toNat hlt).trans ?_
    rw [State.getElem_regsFrom, Nat.zero_add, BitVec.ofNat_toNat, BitVec.setWidth_eq]
  · refine Memory.get_setBytes_outside _ (ha.imp_right fun h => ?_)
    rw [State.length_regsFrom]; omega

/-- Settles O43: the registers V0 to VX become the bytes of the run at I. -/
theorem loadRegisters : Obligations.LoadRegisters := by
  refine ⟨fun _ => decode_of_fieldNN, fun x s hr => ?_⟩
  have hx := x.isLt
  have hlen := Memory.length_getBytes s.mem s.i.toNat (x.toNat + 1)
  have hreg := fun k : Reg => State.reg_setRegsFrom s 0 (s.mem.getBytes s.i.toNat (x.toNat + 1)) k (by omega)
  have hpc : (s.setRegsFrom 0 (s.mem.getBytes s.i.toNat (x.toNat + 1))).pc = s.pc := by rw [State.setRegsFrom_eq]
  refine ⟨_, exec_loadRegs (by omega), fun k hk => ?_, fun k hk => ?_, ?_,
    (loadUpTo_onlyWrites [] s x s.i.toNat).goNext⟩
  · rw [State.goNext_reg, hreg, dif_pos (by omega), Memory.getElem_getBytes, Nat.sub_zero]
  · rw [State.goNext_reg, hreg, dif_neg (by omega)]
  · rw [State.goNext_pc, State.nextPc_eq, hpc]

/-- Settles O44: each form raises the error from an I that leaves no room for its bytes. -/
theorem memoryRangeErrors : Obligations.MemoryRangeErrors := fun x y n _ =>
  ⟨fun hn h => exec_of_raises (.drw x y n (by omega)), fun h => exec_of_raises (.storeBcd x (by omega)), fun h =>
    ⟨exec_of_raises (.storeRegs x (by omega)), exec_of_raises (.loadRegs x (by omega))⟩⟩

/-- Settles O47: the first two bytes stored are the word at the next PC. -/
theorem storeIsSeenByNextFetch : Obligations.StoreIsSeenByNextFetch := by
  intro x s hx hi hr
  obtain ⟨-, hstore⟩ := storeRegisters
  obtain ⟨t, hexec, hbytes, -, hpc, -⟩ := hstore x s hr
  have hnext : t.pc.toNat = s.i.toNat := by
    rw [hpc, BitVec.toNat_add, hi]
    exact Nat.mod_eq_of_lt (show s.pc.toNat + 2 < 65536 by omega)
  have h0 : t.mem.get t.pc.toNat = s.reg 0 := hnext ▸ hbytes 0 (by simp)
  have h1 : t.mem.get (t.pc.toNat + 1) = s.reg 1 := hnext ▸ hbytes 1 hx
  refine ⟨t, hexec, (Stepping.fetch_ok (by omega)).trans ?_⟩
  rw [wordAtPc, h0, h1]

end Sys2Proof.IndexMemory
end

section
/-! The events beside the step, and schedules (60_exceptions.md, 70_reset_and_hazards.md). -/

namespace Sys2Proof.Events

open Sys2Proof.Machine Sys2Proof.Claims

/-! ### Ticks (R212 to R215) -/

theorem toNat_countDown (b : Byte) : (countDown b).toNat = b.toNat - 1 := by
  rw [countDown]
  split
  · next h => subst h; rfl
  · next h =>
    have hpos : b.toNat ≠ 0 := fun h0 => h (BitVec.eq_of_toNat_eq h0)
    have hlt := b.isLt
    rw [BitVec.toNat_sub]
    simp; omega

theorem countDown_of_toNat_eq_zero {b : Byte} (h : b.toNat = 0) : countDown b = b := by
  apply BitVec.eq_of_toNat_eq
  rw [toNat_countDown, h]

/-- Settles O51: a tick is one write of each timer with its value counted down. -/
theorem tickCountsDown : Obligations.TickCountsDown := by
  intro s
  have hdt : s.tick.dt.toNat = s.dt.toNat - 1 := toNat_countDown s.dt
  have hst : s.tick.st.toNat = s.st.toNat - 1 := toNat_countDown s.st
  exact ⟨by omega, countDown_of_toNat_eq_zero, by omega, countDown_of_toNat_eq_zero, rfl,
    ((OnlyWrites.refl _ _ s).setDt (by simp) _).setSt (by simp) _⟩

theorem toNat_ticks (n : Nat) (s : State) :
    (s.ticks n).dt.toNat = s.dt.toNat - n ∧ (s.ticks n).st.toNat = s.st.toNat - n := by
  induction n generalizing s with
  | zero => exact ⟨rfl, rfl⟩
  | succ n ih =>
    obtain ⟨hdt, hst⟩ := ih s.tick
    have hdt' : s.tick.dt.toNat = s.dt.toNat - 1 := toNat_countDown s.dt
    have hst' : s.tick.st.toNat = s.st.toNat - 1 := toNat_countDown s.st
    rw [State.ticks, hdt, hst, hdt', hst']
    omega

/-- Settles O52: the truncated difference of natural numbers is the maximum with 0. -/
theorem timersAreMonotone : Obligations.TimersAreMonotone := by
  intro n s
  obtain ⟨hdt, hst⟩ := toNat_ticks n s
  rw [hdt, hst]
  omega

theorem ticks_status (n : Nat) (s : State) : (s.ticks n).status = s.status := by
  induction n generalizing s with
  | zero => rfl
  | succ n ih => exact ih s.tick

/-- Settles O53: a byte counted down 255 times is 0. -/
theorem soundLineFallsWithin255Ticks : Obligations.SoundLineFallsWithin255Ticks := by
  refine ⟨fun _ => KeyTimer.soundOn_iff, fun n s hn => ⟨?_, ticks_status n s⟩⟩
  obtain ⟨-, hst⟩ := toNat_ticks n s
  have hlt := s.st.isLt
  have hzero : (s.ticks n).st = 0 := BitVec.eq_of_toNat_eq (by rw [hst]; simp; omega)
  exact Bool.eq_false_of_not_eq_true (mt KeyTimer.soundOn_iff.1 (not_not.2 hzero))

/-! ### Keys (R224) -/

/-- Settles O54: one entry of the key vector is set. -/
theorem keyWriteSetsOneKey : Obligations.KeyWriteSetsOneKey := by
  intro s k b
  refine ⟨fun j hj => ?_, rfl, (OnlyWrites.refl _ _ s).keyWrite (by simp) k b⟩
  simp only [State.key, State.keyWrite, Vector.getElem?_eq_getElem hj, Option.getD_some, Vector.getElem_set, eq_comm]

/-! ### Reset (R39, R240 to R242) -/

/-- Outside the font an unlisted address reads as 0. -/
theorem unlisted_eq_zero {a : Nat} (ha : 80 ≤ a) : Memory.unlisted a = 0 := by
  have hlen : Config.font.length ≤ a := ha
  rw [Memory.unlisted, List.getElem?_eq_none hlen]; rfl

/-- The state that `boot` answers for a ROM that fits. -/
def booted (shiftSrc : ShiftSrc) (draws : Nat) (rom : List Byte) : State :=
  { State.reset with mem := Memory.setBytes [] Config.progBase rom, shiftSrc := shiftSrc, draws := draws }

section
variable (src : ShiftSrc) (d : Nat) {rom : List Byte}

theorem boot_of_le (h : rom.length ≤ 3584) : State.boot src d rom = .next (booted src d rom) :=
  if_neg (show ¬ 3584 < rom.length by omega)

theorem boot_of_lt (h : 3584 < rom.length) : State.boot src d rom = .fault .loadError := if_pos h

/-- Outside the ROM memory reads as unlisted. -/
theorem booted_get_outside {a : Nat} (ha : a < 0x200 ∨ 0x200 + rom.length ≤ a) :
    (booted src d rom).mem.get a = Memory.unlisted a :=
  Memory.get_setBytes_outside [] ha

theorem booted_mem_wf (h : rom.length ≤ 3584) : (booted src d rom).mem.wf = true :=
  Memory.wf_setBytes rom Memory.wf_nil (.inr (show 0x200 + rom.length ≤ 4096 by omega))

theorem booted_resetItems (h : rom.length ≤ 3584) : ResetItems rom (booted src d rom) where
  reg r := by simp [booted, State.reg, State.reset]
  i := rfl
  pc := rfl
  sp := rfl
  stack k hk := by simp [booted, State.reset]
  dt := rfl
  st := rfl
  status := rfl
  font a ha := by
    rw [booted_get_outside src d (by omega)]
    exact IndexMemory.font_eq_unlisted ha
  gap a ha ha' := by rw [booted_get_outside src d (.inl ha'), unlisted_eq_zero ha]
  program j hj := Memory.get_setBytes_inside [] 0x200 hj
  rest a ha _ := by rw [booted_get_outside src d (.inr ha), unlisted_eq_zero (by omega)]
  fb := pixel_clearFb
  keys k := by
    by_cases hk : k < 16
    · simp [booted, State.key, State.reset, hk]
    · simp [booted, State.key, State.reset, hk]
  sound := rfl
  memWf := booted_mem_wf src d h

end

/-- Settles O55: a reset is a boot with the session's own parameters, and a boot fills every item. -/
theorem resetBuildsTheWholeState : Obligations.ResetBuildsTheWholeState :=
  ⟨fun src d _ h => ⟨_, boot_of_le src d h, booted_resetItems src d h, rfl, rfl⟩,
    fun s _ h => ⟨_, boot_of_le _ _ h, boot_of_le _ _ h, booted_resetItems s.shiftSrc s.draws h, rfl, rfl⟩, rfl⟩

/-- Settles O56: the ROM does not fit below 4096. -/
theorem longRomIsALoadError : Obligations.LongRomIsALoadError := by
  intro s rom h
  have hfault : s.resetRom rom = .fault .loadError := boot_of_lt _ _ h
  exact ⟨hfault, by rw [hfault]; rfl⟩

/-! ### Schedules (R227) -/

/-- A boot that answers has built the invariant. -/
theorem inv_of_boot {src : ShiftSrc} {d : Nat} {rom : List Byte} {t : State} (h : State.boot src d rom = .next t) :
    t.Inv := by
  rcases Nat.lt_or_ge 3584 rom.length with hlong | hfits
  · rw [boot_of_lt src d hlong] at h; cases h
  · rw [boot_of_le src d hfits] at h; cases h
    obtain ⟨-, hpc, hstack⟩ := Stepping.invariantHoldsAtReset
    exact ⟨booted_mem_wf src d hfits, hpc, hstack⟩

/-- Every single event keeps the invariant. -/
theorem event_keeps_inv {e : Event} {s t : State} (hinv : s.Inv) (h : e.apply s = .next t) : t.Inv := by
  cases e with
  | step => exact Stepping.stepKeepsInvariant s t hinv h
  | tick => cases h; exact ⟨hinv.mem, hinv.pc, hinv.stack⟩
  | keyWrite k b => cases h; exact ⟨hinv.mem, hinv.pc, hinv.stack⟩
  | reset rom => exact inv_of_boot h

/-- Settles O59, by induction on the schedule. -/
theorem schedulesKeepInvariant : Obligations.SchedulesKeepInvariant := by
  intro es
  induction es with
  | nil => intro s t hinv h; cases h; exact hinv
  | cons e es ih =>
    intro s t hinv h
    rw [runEvents] at h
    split at h
    · next u hu => exact ih u t (event_keeps_inv hinv hu) h
    · cases h
    · cases h

end Sys2Proof.Events
end
